-- ==== Sys2Proof/Word.lean ====
section
/-! DEFINITION. The word types of the CRC64 Engine (spec/00_scope.md R7, R9, R10). -/

namespace Sys2Proof

/-- A 64-bit value of the datapath: the CRC register, a LUT entry, a result (R7).
The spec writes `UInt64`; a bit vector is the same set of values, with bit `i` of weight `2^i` (R9). -/
abbrev Word := BitVec 64

/-- An 8-bit value: an input byte or a LUT index (R7). -/
abbrev Byte := BitVec 8

/-- A 10-bit command word (R47). -/
abbrev CmdWord := BitVec 10

/-- The lookup table as the spec's parameter, `LUT : Fin 256 -> UInt64` (R5): every 8-bit index has an entry (R28, R33).
It is a parameter of the datapath and never a field of the state (R16). -/
abbrev Lut := Byte → Word

end Sys2Proof
end

