-- ==== Sys2Proof/Syntax.lean ====
section
/-! DEFINITION. The engine's commands: one constructor per row of spec/opcode_table.json (spec/30_encoding.md R48, R54). -/

namespace Sys2Proof

/-- A command of the engine. -/
inductive Instr where
  /-- INIT, the document's Construct (R70). -/
  | init
  /-- UPDATE, one byte of the document's Update; its operand is the input byte (R49, R50, R71). -/
  | update (c : Byte)
  /-- FINAL, the document's Finalize (R72). -/
  | final
deriving DecidableEq, Repr

end Sys2Proof
end

