-- ==== Sys2Proof/WellFormed.lean ====
section
/-! DEFINITION. Which commands and which command words are well formed (spec/30_encoding.md R47, R49, R57, R58). -/

namespace Sys2Proof

/-- Every command is well formed: INIT and FINAL have no operand, and UPDATE's operand is any byte,
"Every value `0x00` to `0xFF` is legal" (R49). The width is in the type, so no check is left to make here. -/
def Instr.wellFormed : Instr → Bool
  | .init => true
  | .update _ => true
  | .final => true

/-- Check 1 on a command word: `op` is not the reserved value `11` (R48, R57 class `ReservedOp`). -/
def opIsAssigned (w : CmdWord) : Bool := w.extractLsb' 8 2 != 3#2

/-- Check 2 on a command word: `data` is zero unless `op` is UPDATE's `01` (R49, R57 class `NonzeroData`;
op `11` is check 1's). -/
def dataIsLegal (w : CmdWord) : Bool :=
  w.extractLsb' 8 2 == 1#2 || w.extractLsb' 8 2 == 3#2 || w.extractLsb' 0 8 == 0#8

/-- A legal command word: neither class of reserved word (R57). The host presents no other (R59, R112). -/
def wordWellFormed (w : CmdWord) : Bool := opIsAssigned w && dataIsLegal w

end Sys2Proof
end

