-- ==== Sys2Proof/Decode.lean ====
section
/-! DEFINITION. Decoding a 10-bit command word, and the encoder (spec/30_encoding.md R47 to R54, R57). -/

namespace Sys2Proof

/-- The two classes of reserved word (R57). -/
inductive ReservedReason where
  /-- `op = 11` with any `data`. -/
  | reservedOp
  /-- `op` is `00` or `10` and `data` is not zero. -/
  | nonzeroData
deriving DecidableEq, Repr

/-- What a command word decodes to (R51): `INIT | UPDATE(c) | FINAL | Reserved(reason)`. -/
inductive Decoded where
  | instr (i : Instr)
  | reserved (r : ReservedReason)
deriving DecidableEq, Repr

/-- The field `op`, bits `[9:8]` (R47). -/
def fieldOp (w : CmdWord) : BitVec 2 := w.extractLsb' 8 2

/-- The field `data`, bits `[7:0]` (R47). -/
def fieldData (w : CmdWord) : Byte := w.extractLsb' 0 8

/-- Decoding, total on every 10-bit word, in the order of R51's pseudocode. -/
def decode (w : CmdWord) : Decoded :=
  if fieldOp w = 0b01#2 then .instr (.update (fieldData w))
  else if fieldOp w = 0b00#2 ∧ fieldData w = 0#8 then .instr .init
  else if fieldOp w = 0b10#2 ∧ fieldData w = 0#8 then .instr .final
  else if fieldOp w = 0b11#2 then .reserved .reservedOp
  else .reserved .nonzeroData

/-- The word of a command, from the opcode map of R54 and R55: `0x000`, `0x100 | imm8`, `0x200`. -/
def encode : Instr → CmdWord
  | .init => 0x000#10
  | .update c => 0x100#10 ||| c.setWidth 10
  | .final => 0x200#10

/-- The command word that the low `nbits` bits of a number give, if they are one: a command word has 10 bits and no more
(R47, R53), so a number with a higher bit set is no command word. -/
def wordOfBits (nbits w : Nat) : Option CmdWord :=
  if w % 2 ^ nbits < 1024 then some (BitVec.ofNat 10 (w % 2 ^ nbits)) else none

/-- The host's reading of one table word: the command the decoder gives, none where it refuses. -/
def decodeTableWord (nbits w : Nat) : Option Instr :=
  match wordOfBits nbits w with
  | some cw =>
    match decode cw with
    | .instr i => some i
    | .reserved _ => none
  | none => none

end Sys2Proof
end

