-- ==== Sys2Proof/Config.lean ====
section
/-! DEFINITION. What is fixed for this hardware: its hardwired constants, its lookup table, the number of engines, and the
free values the spec leaves undefined (spec/00_scope.md R5, R6, R8; spec/10_state.md R21). -/

namespace Sys2Proof.Config

/-- `INIT_VALUE`, hardwired to zero (R6, R21; 90_conflicts.md C1). -/
def initValue : Word := 0x0000000000000000#64

/-- `XOR_OUT`, hardwired to zero: no all-ones inversion (R6, R21; 90_conflicts.md C2). -/
def xorOut : Word := 0x0000000000000000#64

/-- The distance of the shift unit, in bits (R7, R21). -/
def shiftDistance : Nat := 8

/-- The index mask (R21, R62). -/
def indexMask : Word := 0x00000000000000FF#64

/-- The truncation mask (R21, R64). -/
def truncationMask : Word := 0xFFFFFFFFFFFFFFFF#64

/-- LUT entries 2 to 255: OPEN in the spec (R5, I1; 91_not_in_source.md N1), so a constant with no body. Log entry 1. -/
opaque lutOpen : Byte → Word

/-- The lookup table of this hardware (R5): the two entries the document gives, the rest open. Log entry 1. -/
def lut : Lut := fun i =>
  if i = 0x00#8 then 0x0000000000000000#64
  else if i = 0x01#8 then 0xB1AA069AF3404101#64
  else lutOpen i

/-- The undefined contents of `res_data` while `res_valid = 0` (R52, R102, I5 'any value'): draw number `k` of the stream
an engine owns. A constant with no body, so nothing can be proved of a value. Log entry 3. -/
opaque freeResData : (stream : Nat) → (k : Nat) → Word

/-- How many engines the platform has beyond the first (R8). A constant with no body. Log entry 9. -/
opaque extraEngines : Nat

/-- `N_ENGINES >= 1`, the platform's parameter (R8, I10). -/
def nEngines : Nat := extraEngines + 1

end Sys2Proof.Config
end

