-- ==== Sys2Proof/Machine/State.lean ====
section
/-! DEFINITION. The state of one engine and of its ports, the reasons a step can stop, and the state after reset
(spec/10_state.md R15 to R26; spec/30_encoding.md R45, R52, R57; spec/70_reset_and_hazards.md R102). -/

namespace Sys2Proof.Machine

/-- What the host drives on the engine's input ports at one rising edge of `clk` at which the engine is ready (R45, R46). -/
structure Pins where
  /-- `rst`, active high. -/
  rst : Bool
  /-- `cmd_valid`: a command word is presented. -/
  cmdValid : Bool
  /-- `cmd_word`, the word presented; without meaning while `cmd_valid = 0`. -/
  cmdWord : CmdWord
deriving DecidableEq, Repr

/-- No reset and no word presented. -/
def Pins.idle : Pins := { rst := false, cmdValid := false, cmdWord := 0#10 }

/-- The word `w` presented, no reset. -/
def Pins.command (w : CmdWord) : Pins := { rst := false, cmdValid := true, cmdWord := w }

/-- `rst` asserted, no word presented. -/
def Pins.reset : Pins := { rst := true, cmdValid := false, cmdWord := 0#10 }

/-- One engine with its ports. The LUT and the hardwired constants are no state (R16). -/
structure State where
  /-- The CRC register, the engine's only architectural register (R15, R17). -/
  crc : Word
  /-- The output port `res_valid` (R45, R52). -/
  resValid : Bool
  /-- The output port `res_data` (R45, R52); a free value while `res_valid = 0` (I5). -/
  resData : Word
  /-- The model's own sticky mark of a refused run (R25). -/
  refused : Bool
  /-- The model's own: what the host drives on the input ports from now on, the next edge first; after its end the pins
  are idle. Log entry 5. -/
  input : List Pins
  /-- The model's own: which stream of free values this engine draws from. Log entry 3. -/
  freeStream : Nat
  /-- The model's own: how many free values this engine has drawn. Log entry 3. -/
  freeNext : Nat
deriving DecidableEq, Repr

/-- The engine raises no exception and has no failure state (R74, R87, R92): there is no fault.
No definition raises one; this is safe, since no outcome is hidden by it. The one error of the design, InvalidInputError, is a
value that the host operation returns to its caller (R88, R92): `CallResult.invalidInput`. -/
inductive Fault where
deriving DecidableEq, Repr

/-- Why a step has no outcome. -/
inductive Refusal where
  /-- An instruction without a meaning in `exec`; raised by no arm of this model. Safe. -/
  | notModelled (mnemonic : String)
  /-- Raised by `acceptWord` on a word with `op = 11` (R57 class `ReservedOp`). Safe: nothing follows from such a run. -/
  | reservedOp
  /-- Raised by `acceptWord` on a word with `op` in `00`, `10` and nonzero `data` (R57 class `NonzeroData`). Safe. -/
  | nonzeroData
  /-- Raised by `runStep` in a state whose run already holds a refused word (R25, R91: "the run has no outcome"). Safe. -/
  | runRefused
deriving DecidableEq, Repr

/-- The state of the engine that owns stream `stream` of free values, right after reset (R26, R102): `crc = INIT_VALUE`,
`res_valid = 0`, `res_data` undefined, no refused word, nothing driven on the ports. -/
def State.resetOf (stream : Nat) : State where
  crc := Config.initValue
  resValid := false
  resData := Config.freeResData stream 0
  refused := false
  input := []
  freeStream := stream
  freeNext := 1

/-- The machine right after reset (R26, R102). -/
def State.reset : State := State.resetOf 0

end Sys2Proof.Machine
end

