-- ==== Sys2Proof/Machine/Operands.lean ====
section
/-! DEFINITION. Operand forms: the input byte as it meets the datapath, the low byte of the register, and the integers that
are byte ordinals (spec/30_encoding.md R50; spec/00_scope.md R9, R10; spec/42_stream_operation.md R77, R78). -/

namespace Sys2Proof.Machine

/-- `zext_64(c)`: UPDATE's operand is zero-extended where it meets the 64-bit datapath (R50). -/
def zext64 (c : Byte) : Word := c.setWidth 64

/-- `v[7:0]`, the low byte of a word (R9). -/
def lowByte (v : Word) : Byte := v.setWidth 8

/-- Representable as an unsigned byte: `0 <= x <= 255` (R55, R78). -/
def isByteOrdinal (x : Int) : Bool := decide (0 ≤ x) && decide (x ≤ 255)

/-- The byte of a byte ordinal, `(x : UInt8)` in R77; used only after the check. -/
def byteOfInt (x : Int) : Byte := BitVec.ofInt 8 x

end Sys2Proof.Machine
end

