-- ==== Sys2Proof/Machine/Datapath.lean ====
section
/-! DEFINITION. The 64-bit datapath units, each a pure function without flags or exceptions, over any lookup table
(spec/40_datapath.md R60 to R68; spec/41_engine_commands.md R71). -/

namespace Sys2Proof.Machine

/-- XOR64 (R61). -/
def xor64 (a b : Word) : Word := a ^^^ b

/-- The index unit (R62): `((crc ^ zext_64(c)) & 0xFF)[7:0]`. -/
def indexUnit (crc : Word) (c : Byte) : Byte := lowByte (xor64 crc (zext64 c) &&& Config.indexMask)

/-- SHR8 (R63): logical, zero-filled, by the hardwired distance. -/
def shr8 (a : Word) : Word := a >>> Config.shiftDistance

/-- The truncation mask (R64), the identity on a 64-bit value; kept because R60 draws it. -/
def mask64 (a : Word) : Word := a &&& Config.truncationMask

/-- The LUT read unit (R65), the one access to the LUT space: `MemRead(LUT, idx, 8)` (R11, R27, R29). -/
def lutRead (lut : Lut) (idx : Byte) : Word := lut idx

/-- Combine (R66): the table entry XOR the shifted register. -/
def combine (lut : Lut) (idx : Byte) (crc : Word) : Word := xor64 (lutRead lut idx) (mask64 (shr8 crc))

/-- `updByte(LUT, r, c)` (R71), the datapath of one UPDATE as R60 composes it. -/
def updByte (lut : Lut) (r : Word) (c : Byte) : Word := combine lut (indexUnit r c) r

/-- The output XOR (R67). -/
def fin (crc : Word) : Word := xor64 crc Config.xorOut

end Sys2Proof.Machine
end

