-- ==== Sys2Proof/Machine/Flags.lean ====
section
/-! DEFINITION. The result port. The engine has no status flag, condition code or predicate (spec/10_state.md R20), and no
command computes one (spec/40_datapath.md R68); the only status bit of the machine is `res_valid` (spec/30_encoding.md R52). -/

namespace Sys2Proof.Machine

/-- FINAL drives its value on the port: `res_data` is the value and `res_valid` is 1 (R52). -/
def State.showResult (v : Word) (s : State) : State := { s with resValid := true, resData := v }

/-- The next accepted word, or `rst`, ends a result: `res_valid` is 0 and `res_data` is undefined, a fresh free value
(R52, R102, I5). Log entry 3. -/
def State.dropResult (s : State) : State :=
  { s with
    resValid := false
    resData := Config.freeResData s.freeStream s.freeNext
    freeNext := s.freeNext + 1 }

/-- An edge that accepts nothing: a result holds (R52: "Both hold until the next command word is accepted or `rst` is
asserted"); an undefined `res_data` stays undefined, so it is drawn afresh. Log entry 3. -/
def State.holdResult (s : State) : State := if s.resValid then s else s.dropResult

/-- What the host may read from the result port: the value while `res_valid = 1`, else nothing (R52); nothing in a refused
run (R25, R57). Right after an accepted word this is the step's output, `some v` for FINAL and `none` otherwise (R52, R69). -/
def State.portOutput (s : State) : Option Word :=
  if s.refused then none else if s.resValid then some s.resData else none

end Sys2Proof.Machine
end

