-- ==== Sys2Proof/Machine/Ops.lean ====
section
/-! DEFINITION. The named operations on the state: the register, the input ports, reset, and the mark of a refused run.
There is no writable memory (spec/20_memory.md R27, R31) and no exception entry or return (spec/60_exceptions.md R87, R92,
R93), so there is no operation for them; the LUT is read by `lutRead` alone. -/

namespace Sys2Proof.Machine

/-- Write the CRC register, all 64 bits at once (R17, R34). -/
def State.writeCrc (v : Word) (s : State) : State := { s with crc := v }

/-- What stands on the input ports at the next edge; idle once the host drives nothing more (R45, R46). -/
def State.pins (s : State) : Pins := s.input.headD Pins.idle

/-- The edge has passed: the host's next pins stand on the ports. -/
def State.consumeInput (s : State) : State := { s with input := s.input.tail }

/-- The host presents the words in order, one an edge, before anything else it was going to drive (R39, R46). -/
def State.load (ws : List CmdWord) (s : State) : State := { s with input := ws.map Pins.command ++ s.input }

/-- Asserting `rst` (R102, R26): `crc <- INIT_VALUE`, `res_valid <- 0`, `res_data` undefined; the mark of a refused run
stays. -/
def State.applyReset (s : State) : State := (s.writeCrc Config.initValue).dropResult

/-- `refused <- true ; crc unchanged` (R25, R57): the one operation a refused word leads to. -/
def State.markRefused (s : State) : State := { s with refused := true }

end Sys2Proof.Machine
end

