-- ==== Sys2Proof/Machine/Commands.lean ====
section
/-! DEFINITION. The meanings of the three commands (spec/41_engine_commands.md R69 to R72, spec/30_encoding.md R52). -/

namespace Sys2Proof.Machine

/-- INIT (R70): `crc <- INIT_VALUE`; no output, so the result port's previous result ends (R52). -/
def execInit (s : State) : Host.Outcome State Fault Refusal :=
  .next (s.writeCrc Config.initValue).dropResult

/-- UPDATE c (R71): `crc <- updByte(LUT, crc, c)`, one atomic step (R34); no output (R52). -/
def execUpdate (c : Byte) (s : State) : Host.Outcome State Fault Refusal :=
  .next (s.writeCrc (updByte Config.lut s.crc c)).dropResult

/-- FINAL (R72): returns `crc ^ XOR_OUT` on the result port (R52); `crc` is unchanged. -/
def execFinal (s : State) : Host.Outcome State Fault Refusal :=
  .next (s.showResult (fin s.crc))

end Sys2Proof.Machine
end

