-- ==== Sys2Proof/Machine/Dispatch.lean ====
section
/-! DEFINITION. The dispatch of a decoded command to its meaning (spec/41_engine_commands.md R69). -/

namespace Sys2Proof.Machine

def exec (i : Instr) (s : State) : Host.Outcome State Fault Refusal :=
  match i with
  | .init => Sys2Proof.Machine.execInit s
  | .update c => Sys2Proof.Machine.execUpdate c s
  | .final => Sys2Proof.Machine.execFinal s

end Sys2Proof.Machine
end

