-- ==== Sys2Proof/Machine/Port.lean ====
section
/-! DEFINITION. The command port: which word is accepted, and what a step does with it (spec/30_encoding.md R45, R46, R51, R57;
spec/41_engine_commands.md R69; spec/70_reset_and_hazards.md R102). -/

namespace Sys2Proof.Machine

/-- The engine's step on an accepted word (R69): decode, then run the command, or refuse a reserved word by its class (R57). -/
def acceptWord (w : CmdWord) (s : State) : Host.Outcome State Fault Refusal :=
  match decode w with
  | .instr i => exec i s
  | .reserved .reservedOp => .refused .reservedOp
  | .reserved .nonzeroData => .refused .nonzeroData

/-- One edge with the pins `p` (R46, R102): `rst` resets and accepts no word; otherwise a valid word is accepted; otherwise
the engine holds. -/
def portEdge (p : Pins) (s : State) : Host.Outcome State Fault Refusal :=
  if p.rst then .next s.applyReset
  else if p.cmdValid then acceptWord p.cmdWord s
  else .next s.holdResult

/-- One step: an edge with the pins the host drives next. A run that holds a refused word has no outcome, and reset does not
clear the mark (R25, R57). -/
def runStep (s : State) : Host.Outcome State Fault Refusal :=
  if s.refused then .refused .runRefused else portEdge s.pins s.consumeInput

end Sys2Proof.Machine
end

