-- ==== Sys2Proof/Machine/Step.lean ====
section
/-! DEFINITION. The step of the machine, and how a word is placed for it. -/

namespace Sys2Proof.Machine

/-- One step of the machine: one edge of `clk` at which the engine is ready (R13, R46; log entry 5). -/
def step (s : State) : Host.Outcome State Fault Refusal := runStep s

/-- The state with the command word of `w` presented at the very next edge, before anything else the host drives, in a run
with no refused word. There is no fetch (R19, R43): the next pins are where a step finds its command. Only the ten bits the port
has can be presented. -/
def State.withFetchWord (s : State) (nbits w : Nat) : State :=
  { s.load [BitVec.ofNat 10 (w % 2 ^ nbits)] with refused := false }

end Sys2Proof.Machine
end

