-- ==== Sys2Proof/Machine/Run.lean ====
section
/-! DEFINITION. Runs: a finite sequence of command words to one engine, the mark of a refused word, and what a run observes
(spec/70_reset_and_hazards.md R114; spec/10_state.md R25; spec/30_encoding.md R57; spec/41_engine_commands.md R69). -/

namespace Sys2Proof.Machine

/-- Run the words in order, one step each, stopping at a refused one (R39, R114). -/
def runWords (ws : List CmdWord) (s : State) : Host.Outcome State Fault Refusal :=
  Sys2Proof.core.run ws.length (s.load ws)

/-- The state a step leaves: the next state, or the state with the sticky mark where the step is refused (R25, R57). -/
def State.advance (s : State) : State :=
  match step s with
  | .next t => t
  | .fault f => nomatch f
  | .refused _ => s.markRefused

/-- What a run observes: the values the FINAL commands returned, in order, and the final `crc` (R114). -/
structure Observation where
  outputs : List Word
  crc : Word
deriving DecidableEq, Repr

/-- The observation of a run of words from a state: none where the run holds a refused word (R57, R114). -/
def observeFrom : List CmdWord → State → Option Observation
  | [], s => if s.refused then none else some { outputs := [], crc := s.crc }
  | w :: ws, s =>
    let t := (s.load [w]).advance
    (observeFrom ws t).map fun o => { o with outputs := t.portOutput.toList ++ o.outputs }

/-- The observation of a run: it starts from the reset state (R114). -/
def observe (ws : List CmdWord) : Option Observation := observeFrom ws State.reset

end Sys2Proof.Machine
end

