-- ==== Sys2Proof/Machine/Stream.lean ====
section
/-! DEFINITION. The sequence operations and the host operation `crc64`: Update over a sequence, Finalize, the input check and
its error, and the command form (spec/42_stream_operation.md R75 to R81; spec/60_exceptions.md R88, R89, R91 to R93;
spec/30_encoding.md R56). -/

namespace Sys2Proof.Machine

/-- Update over a sequence, the left fold of the byte step (R75). -/
def updSeq (lut : Lut) : Word → List Byte → Word
  | r, [] => r
  | r, c :: cs => updSeq lut (updByte lut r c) cs

/-- Finalize (R76). -/
def finalize (r : Word) : Word := fin r

/-- The LUT indices the steps of a sequence read, in order (R30, R86). -/
def indicesRead (lut : Lut) : Word → List Byte → List Byte
  | _, [] => []
  | r, c :: cs => indexUnit r c :: indicesRead lut (updByte lut r c) cs

/-- The result of the host operation, with the two codes of R89; no other exists. -/
inductive CallResult where
  /-- A 64-bit result. -/
  | ok (value : Word)
  /-- InvalidInputError with the position of the first offending element and that element (R88). -/
  | invalidInput (index : Nat) (value : Int)
deriving DecidableEq, Repr

/-- The code of a result (R89). -/
def CallResult.code : CallResult → Nat
  | .ok _ => 0
  | .invalidInput _ _ => 1

/-- The first element, from position `k` on, that is no byte ordinal (R78, R91). -/
def firstOffender (k : Nat) : List Int → Option (Nat × Int)
  | [] => none
  | x :: xs => if isByteOrdinal x then firstOffender (k + 1) xs else some (k, x)

/-- `crc64(LUT, xs)` as a function (R77): the check, then Finalize of Update from `INIT_VALUE`. -/
def crc64 (lut : Lut) (xs : List Int) : CallResult :=
  match firstOffender 0 xs with
  | some (k, x) => .invalidInput k x
  | none => .ok (finalize (updSeq lut Config.initValue (xs.map byteOfInt)))

/-- The byte ordinals of a byte sequence, as the host passes them to `crc64` (R77, R81). -/
def ordinals (cs : List Byte) : List Int := cs.map fun c => (c.toNat : Int)

/-- The command words of Update over a sequence: `update c` once per byte, in input order (R75). -/
def updateWords (cs : List Byte) : List CmdWord := cs.map fun c => encode (.update c)

/-- The pseudo-instruction `crc64 b0, ..., b(n-1)`: `init`, one `update` per byte, `final` (R56). -/
def crc64Words (cs : List Byte) : List CmdWord := encode .init :: updateWords cs ++ [encode .final]

/-- The host operation on an engine (R77, R78): the check first, and no command is issued where it raises, so the engine's state
is unchanged (R88, R92, R93); otherwise the command form, whose result is the `res_data` of its FINAL. It has the engine to itself:
its words go before anything else the host drives (R107). Its outcome is the result and the state it leaves. -/
def callCrc64 (xs : List Int) (s : State) : Host.Outcome (CallResult × State) Fault Refusal :=
  match firstOffender 0 xs with
  | some (k, x) => .next (.invalidInput k x, s)
  | none =>
    match runWords (crc64Words (xs.map byteOfInt)) s with
    | .next t => .next (.ok t.resData, t)
    | .fault f => .fault f
    | .refused r => .refused r

end Sys2Proof.Machine
end

