-- ==== Sys2Proof/Machine/Assembler.lean ====
section
/-! DEFINITION. The assembly syntax: one command per line, lower-case mnemonics, `;` comments, and the pseudo-instruction
`crc64` (spec/30_encoding.md R55, R56). Text is a list of characters. -/

namespace Sys2Proof.Machine

/-- The white space between the words of a line. Log entry 8. -/
def isBlank (c : Char) : Bool := c == ' ' || c == '\t' || c == '\r'

/-- A text without the white space around it. -/
def trim (cs : List Char) : List Char := ((cs.dropWhile isBlank).reverse.dropWhile isBlank).reverse

/-- The fields of a text between separators; a text without one is one field. -/
def splitFields (sep : Char) : List Char → List (List Char)
  | [] => [[]]
  | c :: cs =>
    if c == sep then [] :: splitFields sep cs
    else
      match splitFields sep cs with
      | [] => [[c]]
      | f :: fs => (c :: f) :: fs

/-- The value of a digit in base 10 or 16. -/
def digitValue (base : Nat) (c : Char) : Option Nat :=
  let v :=
    if 48 ≤ c.toNat ∧ c.toNat ≤ 57 then c.toNat - 48
    else if 97 ≤ c.toNat ∧ c.toNat ≤ 102 then c.toNat - 87
    else if 65 ≤ c.toNat ∧ c.toNat ≤ 70 then c.toNat - 55
    else base
  if v < base then some v else none

/-- The number that digits give after the value `acc`. -/
def digitsValue (base : Nat) : Nat → List Char → Option Nat
  | acc, [] => some acc
  | acc, c :: cs => (digitValue base c).bind fun d => digitsValue base (acc * base + d) cs

/-- A decimal or `0x`-prefixed hexadecimal integer (R55). A sign makes no such integer. Log entry 8. -/
def parseInteger : List Char → Option Nat
  | '0' :: 'x' :: c :: cs => digitsValue 16 0 (c :: cs)
  | c :: cs => digitsValue 10 0 (c :: cs)
  | [] => none

/-- `<imm8>` (R55): an integer in 0 to 255. "Any other value is an assembly error. It is not truncated." -/
def immediate (x : Int) : Option Byte := if isByteOrdinal x then some (byteOfInt x) else none

/-- The text of an `<imm8>`. -/
def parseImmediate (cs : List Char) : Option Byte := (parseInteger cs).bind fun n => immediate n

/-- A list of `<imm8>` texts; one that is none makes the whole an error. -/
def parseImmediates : List (List Char) → Option (List Byte)
  | [] => some []
  | t :: ts => (parseImmediate t).bind fun c => (parseImmediates ts).map fun cs => c :: cs

/-- The words of a mnemonic with its operand texts, none an assembly error (R55, R56). -/
def assembleStatement (mnemonic : List Char) (operands : List (List Char)) : Option (List CmdWord) :=
  if mnemonic = ['i', 'n', 'i', 't'] then
    if operands = [] then some [encode .init] else none
  else if mnemonic = ['u', 'p', 'd', 'a', 't', 'e'] then
    match operands with
    | [t] => (parseImmediate t).map fun c => [encode (.update c)]
    | _ => none
  else if mnemonic = ['f', 'i', 'n', 'a', 'l'] then
    if operands = [] then some [encode .final] else none
  else if mnemonic = ['c', 'r', 'c', '6', '4'] then
    (parseImmediates operands).map crc64Words
  else none

/-- One line: a `;` starts a comment, and a line with nothing else assembles to no word (R55). -/
def assembleLine (line : List Char) : Option (List CmdWord) :=
  let text := trim (line.takeWhile fun c => c != ';')
  if text = [] then some []
  else
    let mnemonic := text.takeWhile fun c => !isBlank c
    let rest := trim (text.dropWhile fun c => !isBlank c)
    assembleStatement mnemonic (if rest = [] then [] else (splitFields ',' rest).map trim)

/-- The words of a list of lines; one error makes the whole an error. -/
def assembleLines : List (List Char) → Option (List CmdWord)
  | [] => some []
  | l :: ls => (assembleLine l).bind fun ws => (assembleLines ls).map fun more => ws ++ more

/-- A program text: one command per line (R55). -/
def assemble (text : List Char) : Option (List CmdWord) := assembleLines (splitFields '\n' text)

end Sys2Proof.Machine
end

