-- ==== Sys2Proof/Machine/Engine.lean ====
section
/-! DEFINITION. The engine as the spec's pseudocode has it, a function of the lookup table and the register alone: R69's step
over any LUT (spec/41_engine_commands.md R69; spec/00_scope.md R5, "A model takes `LUT` as an argument"). It says what the machine
computes for EVERY table; the machine itself runs with `Config.lut`. -/

namespace Sys2Proof.Machine

/-- A lookup table this hardware may have: the two entries the document gives (R5, D5). -/
abbrev Admissible (lut : Lut) : Prop := lut 0x00#8 = 0x0000000000000000#64 ∧ lut 0x01#8 = 0xB1AA069AF3404101#64

/-- `Outcome` of R69: `ok (next state, output)` or `refused (reason)`. -/
inductive EngineOutcome where
  | ok (crc : Word) (output : Option Word)
  | refused (r : ReservedReason)
deriving DecidableEq, Repr

/-- `step(LUT, s, w)` of R69. -/
def engineStep (lut : Lut) (crc : Word) (w : CmdWord) : EngineOutcome :=
  match decode w with
  | .instr .init => .ok Config.initValue none
  | .instr (.update c) => .ok (updByte lut crc c) none
  | .instr .final => .ok crc (some (fin crc))
  | .reserved r => .refused r

/-- The observation of a run of words from a register value: none where a word is reserved (R57, R114). -/
def engineObserve (lut : Lut) : List CmdWord → Word → Option Observation
  | [], crc => some { outputs := [], crc := crc }
  | w :: ws, crc =>
    match engineStep lut crc w with
    | .ok crc' out => (engineObserve lut ws crc').map fun o => { o with outputs := out.toList ++ o.outputs }
    | .refused _ => none

end Sys2Proof.Machine
end

