-- ==== Sys2Proof/Machine/Platform.lean ====
section
/-! DEFINITION. A platform of several engines that share the read-only LUT: each owns its state, and their commands interleave in
any order (spec/00_scope.md R8; spec/10_state.md R24; spec/20_memory.md R40; spec/60_exceptions.md R99). -/

namespace Sys2Proof.Machine

/-- `n` engines; the LUT they share is no state (R16, R40). -/
structure Platform (n : Nat) where
  engines : Vector State n
deriving DecidableEq, Repr

/-- Each engine starts in the reset state (R99), with its own stream of free values (log entry 3). -/
def Platform.reset (n : Nat) : Platform n := { engines := Vector.ofFn fun k => State.resetOf k.val }

/-- Engine `k` steps, all others stand still (R24). A refused word marks its own engine alone (R25 "per engine instance", R57). -/
def Platform.stepAt {n : Nat} (p : Platform n) (k : Fin n) : Platform n :=
  { engines := p.engines.set k.val p.engines[k].advance }

/-- The host presents a word to engine `k`. -/
def Platform.present {n : Nat} (p : Platform n) (k : Fin n) (w : CmdWord) : Platform n :=
  { engines := p.engines.set k.val (p.engines[k].load [w]) }

/-- The engines step in the order of a schedule: any interleaving (R40, R99). -/
def Platform.run {n : Nat} : List (Fin n) → Platform n → Platform n
  | [], p => p
  | k :: ks, p => Platform.run ks (p.stepAt k)

/-- The platform of this hardware, with `N_ENGINES` engines (R8). -/
abbrev System := Platform Config.nEngines

/-- The platform after reset. -/
def System.reset : System := Platform.reset Config.nEngines

end Sys2Proof.Machine
end

