-- ==== Sys2Proof/Safety.lean ====
section
/-! DEFINITION. What a safe run is, in the terms the statements use: the host's duties, the standing invariant of the result
port, and the runs that never stop (spec/30_encoding.md R52, R59; spec/70_reset_and_hazards.md R112). -/

namespace Sys2Proof.Machine

/-- The pins break no duty of the host: no reserved word, and no word while `rst = 1` (R59, R112). -/
def Pins.obeysHostDuties (p : Pins) : Bool := !p.cmdValid || (!p.rst && wordWellFormed p.cmdWord)

/-- Everything the host is going to drive obeys its duties. -/
def State.hostObeys (s : State) : Bool := s.input.all Pins.obeysHostDuties

/-- While `res_valid = 1`, `res_data` is the Finalize of the register as it stands: FINAL changes nothing, and the next accepted
word or `rst` ends the result (R52, R72, R102). -/
abbrev State.ResultIsCurrent (s : State) : Prop := s.resValid = true → s.resData = fin s.crc

/-- The next edge accepts the word `w` (R46). -/
abbrev State.Accepts (s : State) (w : CmdWord) : Prop :=
  s.refused = false ∧ s.pins.rst = false ∧ s.pins.cmdValid = true ∧ s.pins.cmdWord = w

/-- A run that never stops, however long. -/
def State.NeverStops (s : State) : Prop := ∀ k, ∃ t, Sys2Proof.core.run k s = .next t

end Sys2Proof.Machine
end

