-- ==== Sys2Proof/Certificates/Slice0/Obligations.lean ====
section
/-! DEFINITION. The statements for the provers, by the spec's numbered rules. A `v` that a statement only says to exist is a free
value: the undefined contents of `res_data` (spec/30_encoding.md R52; log entry 3). -/

open Sys2Proof Sys2Proof.Machine

/-! ### Encoding -/

/-- 30_encoding.md sections 4 and 7: every command, with every operand value, has a legal word that decodes to it. -/
def Obligations.EncodedCommandDecodesToItself : Prop :=
  ∀ i : Instr, wordWellFormed (encode i) = true ∧ decode (encode i) = .instr i

/-- 30_encoding.md section 4: a word that decodes to a command is that command's encoding, so no command has two words. -/
def Obligations.DecodedWordIsItsEncoding : Prop :=
  ∀ (w : CmdWord) (i : Instr), decode w = .instr i → encode i = w

/-- R54: the opcode map, as match and mask, and "Every word matching no row is reserved". -/
def Obligations.DecodingFollowsTheOpcodeMap : Prop :=
  ∀ w : CmdWord,
    (decode w = .instr .init ↔ w &&& 0x3FF#10 = 0x000#10) ∧
    (∀ c : Byte, decode w = .instr (.update c) ↔ (w &&& 0x300#10 = 0x100#10 ∧ w.setWidth 8 = c)) ∧
    (decode w = .instr .final ↔ w &&& 0x3FF#10 = 0x200#10) ∧
    (w &&& 0x3FF#10 ≠ 0x000#10 → w &&& 0x300#10 ≠ 0x100#10 → w &&& 0x3FF#10 ≠ 0x200#10 → ∃ r, decode w = .reserved r)

/-- R51: the decoder case by case, and how many of the 1024 words have each outcome. -/
def Obligations.DecodingCoversAllWords : Prop :=
  (∀ w : CmdWord,
    (w.extractLsb' 8 2 = 0b01#2 → decode w = .instr (.update (w.extractLsb' 0 8))) ∧
    (w.extractLsb' 8 2 = 0b00#2 → w.extractLsb' 0 8 = 0#8 → decode w = .instr .init) ∧
    (w.extractLsb' 8 2 = 0b10#2 → w.extractLsb' 0 8 = 0#8 → decode w = .instr .final) ∧
    (w.extractLsb' 8 2 = 0b11#2 → decode w = .reserved .reservedOp) ∧
    (w.extractLsb' 8 2 = 0b00#2 ∨ w.extractLsb' 8 2 = 0b10#2 → w.extractLsb' 0 8 ≠ 0#8 →
      decode w = .reserved .nonzeroData)) ∧
  (let words : List CmdWord := (List.range 1024).map (BitVec.ofNat 10);
    (words.filter fun w => decode w = .instr .init).length = 1 ∧
    (words.filter fun w => decode w = .instr (.update (w.setWidth 8))).length = 256 ∧
    (words.filter fun w => decode w = .instr .final).length = 1 ∧
    (words.filter fun w => decode w = .reserved .reservedOp).length = 256 ∧
    (words.filter fun w => decode w = .reserved .nonzeroData).length = 510)

/-- 95_test_vectors.md section 2.2: the decode vectors of the spec. -/
def Obligations.SpecVectorWordsDecode : Prop :=
  decode 0x000#10 = .instr .init ∧ decode 0x100#10 = .instr (.update 0x00#8) ∧
  decode 0x101#10 = .instr (.update 0x01#8) ∧ decode 0x1FF#10 = .instr (.update 0xFF#8) ∧
  decode 0x200#10 = .instr .final ∧ decode 0x001#10 = .reserved .nonzeroData ∧
  decode 0x080#10 = .reserved .nonzeroData ∧ decode 0x2FF#10 = .reserved .nonzeroData ∧
  decode 0x300#10 = .reserved .reservedOp ∧ decode 0x3FF#10 = .reserved .reservedOp

/-! ### The commands -/

/-- INIT (R70), with the end of a result on the port (R52). It completes in every state; all but the register, the result port and
the draw count is unchanged. That `freeNext` counts one draw is the model's choice, log entry 3. -/
def Obligations.InitSetsTheRegisterToZero : Prop :=
  encode .init = 0b0000000000#10 ∧
  (∀ s : State, ∃ v, exec .init s =
    .next { s with crc := 0x0000000000000000#64, resValid := false, resData := v, freeNext := s.freeNext + 1 }) ∧
  (∃ t, exec .init State.reset = .next t ∧ t.crc = State.reset.crc) ∧
  (∀ s : State, ∃ t u, exec .init s = .next t ∧ exec .final t = .next u ∧ u.resValid = true ∧
    u.resData = 0x0000000000000000#64)

/-- UPDATE (R71), with the end of a result on the port (R52). It completes in every state; all but the register, the result port and
the draw count is unchanged. That `freeNext` counts one draw is the model's choice, log entry 3. The clauses after the first two are
R71's corner cases and its example. -/
def Obligations.UpdateTakesOneTableStep : Prop :=
  (∀ c : Byte, encode (.update c) = 0x100#10 ||| c.setWidth 10) ∧
  (∀ (s : State) (c : Byte), ∃ v, exec (.update c) s =
    .next { s with
      crc := Config.lut (((s.crc ^^^ c.setWidth 64) &&& 0xFF#64).setWidth 8) ^^^
        ((s.crc >>> 8) &&& 0xFFFFFFFFFFFFFFFF#64)
      resValid := false
      resData := v
      freeNext := s.freeNext + 1 }) ∧
  updByte Config.lut 0#64 0x00#8 = 0#64 ∧
  (∀ r : Word, updByte Config.lut r (r.setWidth 8) = r >>> 8) ∧
  updByte Config.lut 0xFFFFFFFFFFFFFFFF#64 0xFF#8 = 0x00FFFFFFFFFFFFFF#64 ∧
  updByte Config.lut 0x8000000000000000#64 0x00#8 = 0x0080000000000000#64 ∧
  (∀ (r r' : Word) (c : Byte), r.setWidth 8 = r'.setWidth 8 → indexUnit r c = indexUnit r' c) ∧
  updByte Config.lut 0#64 0x01#8 = 0xB1AA069AF3404101#64

/-- R72: FINAL. It completes in every state; all but the result port is unchanged. -/
def Obligations.FinalReturnsTheRegister : Prop :=
  encode .final = 0b1000000000#10 ∧
  (∀ s : State, exec .final s = .next { s with resValid := true, resData := s.crc }) ∧
  (∀ s : State, ∃ t u, exec .final s = .next t ∧ exec .final t = .next u ∧ u.resData = t.resData ∧ u.crc = s.crc) ∧
  (∀ (s : State) (c : Byte), ∃ t u, exec .final s = .next t ∧ exec (.update c) t = .next u ∧
    u.crc = updByte Config.lut s.crc c) ∧
  (∃ t, exec .final State.reset = .next t ∧ t.resData = 0x0000000000000000#64) ∧
  (∀ s : State, ∃ t u, exec .init s = .next t ∧ exec .final t = .next u ∧ u.resData = 0x0000000000000000#64)

/-- The frame of all three commands (10_state.md section 2, 30_encoding.md section 5): which command writes the register, which
shows a result, and that none touches the refused mark, the host's input or another stream of free values. -/
def Obligations.CommandsFrame : Prop :=
  ∀ (i : Instr) (s t : State), exec i s = .next t →
    t.refused = s.refused ∧ t.input = s.input ∧ t.freeStream = s.freeStream ∧
    (t.resValid = true ↔ i = .final) ∧
    (i = .final → t.crc = s.crc ∧ t.freeNext = s.freeNext) ∧
    (i ≠ .final → t.freeNext = s.freeNext + 1 ∧ t.portOutput = none)

/-! ### The step -/

/-- 30_encoding.md section 1, 41_engine_commands.md section 1: a step that accepts a legal word is the command's meaning at the
state with the host's next pins on the ports. -/
def Obligations.StepRunsTheDecodedCommand : Prop :=
  ∀ (s : State) (w : CmdWord) (i : Instr), s.Accepts w → decode w = .instr i →
    step s = exec i { s with input := s.input.tail }

/-- The word the host's interface places is the one the very next step runs (the model's own interface, log entry 7). -/
def Obligations.PlacedWordRunsNext : Prop :=
  ∀ (s : State) (nbits w : Nat) (i : Instr), decodeTableWord nbits w = some i →
    step (s.withFetchWord nbits w) = exec i { s with refused := false }

/-- 30_encoding.md section 9: a reserved word is refused by its class, changes nothing but the sticky mark, gives no output, and
its run has no outcome. -/
def Obligations.ReservedWordsAreRefusedByClass : Prop :=
  ∀ (s : State) (w : CmdWord), s.Accepts w →
    (w.extractLsb' 8 2 = 0b11#2 → step s = .refused .reservedOp) ∧
    ((w.extractLsb' 8 2 = 0b00#2 ∨ w.extractLsb' 8 2 = 0b10#2) → w.extractLsb' 0 8 ≠ 0#8 →
      step s = .refused .nonzeroData) ∧
    (wordWellFormed w = false →
      s.advance = { s with refused := true } ∧ s.advance.portOutput = none ∧
      ∀ k, Sys2Proof.core.run (k + 1) s.advance = .refused .runRefused)

/-- R74: every word that is not reserved steps to a next state, no state faults, the only stops are reserved words, and the
host-level error is raised before any command. -/
def Obligations.EveryLegalWordCompletes : Prop :=
  (∀ (s : State) (w : CmdWord), s.Accepts w → wordWellFormed w = true → ∃ t, step s = .next t) ∧
  (∀ (s : State) (f : Fault), step s ≠ .fault f) ∧
  (∀ (s : State) (r : Refusal), step s = .refused r →
    s.refused = true ∨ ∃ w, s.Accepts w ∧ wordWellFormed w = false) ∧
  (∀ (s t : State) (xs : List Int) (k : Nat) (x : Int), callCrc64 xs s = .next (.invalidInput k x, t) → t = s)

/-- R69: a step on an accepted word is the spec's `step(LUT, s, w)`: the same register, the same output, the same refusal. -/
def Obligations.StepIsTheSpecsEngineStep : Prop :=
  ∀ (s : State) (w : CmdWord), s.Accepts w →
    match engineStep Config.lut s.crc w with
    | .ok crc out => ∃ t, step s = .next t ∧ t.crc = crc ∧ t.portOutput = out
    | .refused .reservedOp => step s = .refused .reservedOp
    | .refused .nonzeroData => step s = .refused .nonzeroData

/-! ### Reset and the result port -/

/-- 10_state.md section 10: the values after reset, whatever stream of free values the engine owns. -/
def Obligations.ResetLeavesTheRegisterZero : Prop :=
  State.reset = State.resetOf 0 ∧
  ∀ k : Nat, (State.resetOf k).crc = 0x0000000000000000#64 ∧ (State.resetOf k).resValid = false ∧
    (State.resetOf k).refused = false ∧ (State.resetOf k).portOutput = none ∧ (State.resetOf k).pins = Pins.idle

/-- An edge with `rst = 1`, whatever word is presented beside it (R102). The model's choices in it: `freeNext` counts one draw (log
entry 3), the pins of the edge pass off the list (log entry 5), and a word beside `rst` passes with them (log entry 6). -/
def Obligations.AssertingRstResets : Prop :=
  ∀ s : State, s.refused = false → s.pins.rst = true →
    ∃ v, step s = .next { s with
      crc := 0x0000000000000000#64
      resValid := false
      resData := v
      input := s.input.tail
      freeNext := s.freeNext + 1 }

/-- R52: FINAL sets the result; it holds over edges that accept nothing; the next accepted word and `rst` end it. That the pins of an
edge pass off the list is log entry 5. -/
def Obligations.ResultHoldsUntilTheNextWord : Prop :=
  (∀ (s : State) (w : CmdWord), s.Accepts w → decode w = .instr .final →
    ∃ t, step s = .next t ∧ t.resValid = true ∧ t.resData = s.crc ∧ t.portOutput = some s.crc) ∧
  (∀ s : State, s.refused = false → s.pins.rst = false → s.pins.cmdValid = false → s.resValid = true →
    step s = .next { s with input := s.input.tail }) ∧
  (∀ (s : State) (w : CmdWord) (i : Instr), s.Accepts w → decode w = .instr i → i ≠ .final →
    ∃ t, step s = .next t ∧ t.resValid = false ∧ t.portOutput = none) ∧
  (∀ s : State, s.refused = false → s.pins.rst = true → ∃ t, step s = .next t ∧ t.resValid = false ∧ t.portOutput = none)

/-- The model's choice of log entries 3 and 5: an edge that accepts nothing while no result is on the port completes and leaves
all but the undefined `res_data` as it was. -/
def Obligations.IdleEdgeLeavesTheEngine : Prop :=
  ∀ s : State, s.refused = false → s.pins.rst = false → s.pins.cmdValid = false → s.resValid = false →
    ∃ v, step s = .next { s with resData := v, input := s.input.tail, freeNext := s.freeNext + 1 }

/-- The invariant of the result port holds after reset. -/
def Obligations.ResetResultIsCurrent : Prop := ∀ k : Nat, (State.resetOf k).ResultIsCurrent

/-- 30_encoding.md section 5, 41_engine_commands.md section 2: from every state, not only those a run reaches, a step keeps the
result on the port equal to the Finalize of the register. -/
def Obligations.StepKeepsResultCurrent : Prop :=
  ∀ s t : State, s.ResultIsCurrent → step s = .next t → t.ResultIsCurrent

/-- R25: the sticky mark. -/
def Obligations.RefusedMarkIsSticky : Prop :=
  State.reset.refused = false ∧
  (∀ (s : State) (w : CmdWord), s.Accepts w → (s.advance.refused = true ↔ wordWellFormed w = false)) ∧
  (∀ (s : State) (k : Nat), s.refused = true → (State.advance^[k] s).refused = true) ∧
  (∀ s : State, s.applyReset.refused = s.refused) ∧
  (∀ s t : State, s.refused = true → step s ≠ .next t)

/-- 10_state.md section 2, 60_exceptions.md section 6: unless a step accepts FINAL, what the host can read on the result port after
it does not depend on the register. -/
def Obligations.OnlyFinalShowsTheRegister : Prop :=
  ∀ (s t : State) (v : Word), step s = .next t → ¬ s.Accepts (encode .final) →
    ∃ t', step { s with crc := v } = .next t' ∧ t'.resValid = t.resValid ∧ t'.portOutput = t.portOutput

/-! ### Runs -/

/-- R39: words run in order, each on the state the words before it left. -/
def Obligations.WordsTakeEffectInOrder : Prop :=
  ∀ (ws vs : List CmdWord) (s t : State), runWords ws s = .next t → runWords (ws ++ vs) s = runWords vs t

/-- R114: a run from reset observes what the spec's engine observes, and nothing if and only if it holds a reserved word. -/
def Obligations.RunObservesTheSpecsEngine : Prop :=
  ∀ ws : List CmdWord,
    observe ws = engineObserve Config.lut ws 0x0000000000000000#64 ∧
    (observe ws = none ↔ ∃ w ∈ ws, wordWellFormed w = false)

/-- R73: a run depends only on the register its start state holds, `init` makes it depend on nothing, and a `final` put in
anywhere changes no later register value. -/
def Obligations.InitForgetsAndFinalIsInvisible : Prop :=
  (∀ (ws : List CmdWord) (s s' : State), s.refused = false → s'.refused = false → s.crc = s'.crc →
    observeFrom ws s = observeFrom ws s') ∧
  (∀ (ws : List CmdWord) (s s' : State), s.refused = false → s'.refused = false →
    observeFrom (encode .init :: ws) s = observeFrom (encode .init :: ws) s') ∧
  (∀ (ws vs : List CmdWord) (s : State), s.refused = false →
    (observeFrom (ws ++ encode .final :: vs) s).map Observation.crc = (observeFrom (ws ++ vs) s).map Observation.crc)

/-- 70_reset_and_hazards.md section 2: directly after reset, `init` has no effect on what a run observes. -/
def Obligations.InitAfterResetIsInvisible : Prop :=
  ∀ ws : List CmdWord, observe (encode .init :: ws) = observe ws

/-- 70_reset_and_hazards.md section 4: an engine whose host obeys its duties never stops. -/
def Obligations.DutifulHostNeverStops : Prop :=
  ∀ s : State, s.refused = false → s.hostObeys = true → s.NeverStops

/-- The step lemma behind it, from every state: a step of an unrefused engine whose host obeys its duties has a next state, and the
engine is unrefused and its host dutiful there (30_encoding.md section 9, 70_reset_and_hazards.md section 4). -/
def Obligations.StepKeepsTheHostDutiful : Prop :=
  ∀ s : State, s.refused = false → s.hostObeys = true →
    ∃ t, step s = .next t ∧ t.refused = false ∧ t.hostObeys = true

/-- R24, R40, and R99's "Each instance's results are those it would give alone": in every interleaving, each engine is where its own
steps alone would have brought it, and presenting a word to one engine leaves the others. -/
def Obligations.InstancesNeverInterfere : Prop :=
  ∀ (n : Nat) (p : Platform n),
    (∀ (ks : List (Fin n)) (k : Fin n), (Platform.run ks p).engines[k] = State.advance^[ks.count k] p.engines[k]) ∧
    (∀ (j k : Fin n) (w : CmdWord), j ≠ k →
      (p.present k w).engines[j] = p.engines[j] ∧ (p.stepAt k).engines[j] = p.engines[j])

/-- 60_exceptions.md section 6: there is at least one engine, and each starts in the reset state. -/
def Obligations.EveryInstanceStartsReset : Prop :=
  1 ≤ Config.nEngines ∧
  ∀ (n : Nat) (k : Fin n), (Platform.reset n).engines[k] = State.resetOf k.val

/-! ### The datapath -/

/-- R61, R64, R66, R67: XOR, the truncation mask, the combine unit and the output XOR. -/
def Obligations.XorUnitsAreExact : Prop :=
  (∀ (a b : Word) (i : Nat), i < 64 → (xor64 a b).getLsbD i = (a.getLsbD i ^^ b.getLsbD i)) ∧
  (∀ a b c : Word, xor64 a a = 0#64 ∧ xor64 a 0#64 = a ∧ xor64 a b = xor64 b a ∧
    xor64 (xor64 a b) c = xor64 a (xor64 b c)) ∧
  xor64 0xB1AA069AF3404101#64 0x00B1AA069AF34041#64 = 0xB11BAC9C69B30140#64 ∧
  (∀ a : Word, mask64 a = a &&& 0xFFFFFFFFFFFFFFFF#64 ∧ mask64 a = a ∧ mask64 (shr8 a) = shr8 a) ∧
  mask64 0x00B1AA069AF34041#64 = 0x00B1AA069AF34041#64 ∧
  (∀ (lut : Lut) (r : Word) (c : Byte),
    updByte lut r c = xor64 (lutRead lut (indexUnit r c)) (mask64 (shr8 r))) ∧
  updByte Config.lut 0xB1AA069AF3404101#64 0x00#8 = 0xB11BAC9C69B30140#64 ∧
  (∀ a : Word, fin a = xor64 a 0x0000000000000000#64 ∧ fin a = a ∧ fin a ≠ a ^^^ 0xFFFFFFFFFFFFFFFF#64) ∧
  fin 0xB1AA069AF3404101#64 = 0xB1AA069AF3404101#64

/-- R62: the index is the register's low byte XOR the input byte. -/
def Obligations.IndexUsesOnlyTheLowByte : Prop :=
  (∀ (crc : Word) (c : Byte),
    indexUnit crc c = ((crc ^^^ c.setWidth 64) &&& 0x00000000000000FF#64).setWidth 8 ∧
    indexUnit crc c = crc.setWidth 8 ^^^ c ∧ indexUnit crc (crc.setWidth 8) = 0x00#8 ∧ indexUnit 0#64 c = c) ∧
  (∀ (crc crc' : Word) (c : Byte), crc.setWidth 8 = crc'.setWidth 8 → indexUnit crc c = indexUnit crc' c) ∧
  indexUnit 0xB1AA069AF3404101#64 0x00#8 = 0x01#8

/-- R63: the shift is logical, by eight, zero-filled. -/
def Obligations.ShiftIsLogicalByEight : Prop :=
  (∀ a : Word, (∀ i, i < 56 → (shr8 a).getLsbD i = a.getLsbD (i + 8)) ∧ (∀ i, 56 ≤ i → (shr8 a).getLsbD i = false)) ∧
  (∀ a b : Word, (∀ i, 8 ≤ i → a.getLsbD i = b.getLsbD i) → shr8 a = shr8 b) ∧
  shr8 0xFFFFFFFFFFFFFFFF#64 = 0x00FFFFFFFFFFFFFF#64 ∧ shr8 0x8000000000000000#64 = 0x0080000000000000#64 ∧
  shr8 0x00000000000000FF#64 = 0#64 ∧ shr8 0xB1AA069AF3404101#64 = 0x00B1AA069AF34041#64

/-- R65: the LUT read unit, and the two entries the document gives. -/
def Obligations.LutReadGivesTheEntry : Prop :=
  (∀ (lut : Lut) (idx : Byte), lutRead lut idx = lut idx) ∧
  lutRead Config.lut 0x00#8 = 0x0000000000000000#64 ∧ lutRead Config.lut 0x01#8 = 0xB1AA069AF3404101#64

/-! ### Sequences and the host operation -/

/-- R75: Update over a sequence is the left fold of the byte step, and issuing `update c` once per byte computes it. That the words go
before the host's other input, which stays as it was, is log entry 7. -/
def Obligations.UpdateWordsComputeTheFold : Prop :=
  (∀ (lut : Lut) (r : Word) (c : Byte) (cs : List Byte),
    updSeq lut r [] = r ∧ updSeq lut r (c :: cs) = updSeq lut (updByte lut r c) cs) ∧
  (∀ (s : State) (cs : List Byte), s.refused = false →
    ∃ t, runWords (cs.map fun c => encode (.update c)) s = .next t ∧ t.crc = updSeq Config.lut s.crc cs ∧
      t.refused = false ∧ t.input = s.input) ∧
  updSeq Config.lut 0#64 [0x01#8, 0x00#8] = 0xB11BAC9C69B30140#64

/-- R77: the host operation returns, from every state of an engine it has to itself, what the function `crc64` gives; where every
element is a byte ordinal that is Finalize of the fold, and the port shows it. That the operation's words go before the host's other
input, which stays as it was (`t.input = s.input`), is log entry 12. -/
def Obligations.HostCallReturnsCrc64 : Prop :=
  (∀ (s : State) (xs : List Int), s.refused = false →
    ∃ t, callCrc64 xs s = .next (crc64 Config.lut xs, t) ∧ t.refused = false ∧ t.input = s.input) ∧
  (∀ (s : State) (xs : List Int), s.refused = false → (∀ x ∈ xs, 0 ≤ x ∧ x ≤ 255) →
    ∃ t v, callCrc64 xs s = .next (.ok v, t) ∧ v = updSeq Config.lut 0#64 (xs.map (BitVec.ofInt 8)) ^^^ 0#64 ∧
      t.crc = v ∧ t.portOutput = some v)

/-- R78, R89: the error names the lowest offending position and its element and leaves the engine as it was, with no command
issued; with no offending element there is no error; a result has code 0, the error code 1, and there is no other code. -/
def Obligations.InvalidInputReportsTheLowestIndex : Prop :=
  (∀ (s : State) (xs : List Int) (k : Nat) (x : Int), xs[k]? = some x → ¬ (0 ≤ x ∧ x ≤ 255) →
    (∀ (j : Nat) (y : Int), j < k → xs[j]? = some y → 0 ≤ y ∧ y ≤ 255) →
    callCrc64 xs s = .next (.invalidInput k x, s) ∧ crc64 Config.lut xs = .invalidInput k x) ∧
  (∀ xs : List Int, (∀ x ∈ xs, 0 ≤ x ∧ x ≤ 255) → ∃ v, crc64 Config.lut xs = .ok v) ∧
  (∀ r : CallResult, (r.code = 0 ↔ ∃ v, r = .ok v) ∧ (r.code = 1 ↔ ∃ k x, r = .invalidInput k x) ∧
    (r.code = 0 ∨ r.code = 1))

/-- R79: the empty sequence yields the initial register unchanged. -/
def Obligations.EmptySequenceYieldsZero : Prop :=
  (∀ lut : Lut, crc64 lut [] = .ok 0x0000000000000000#64) ∧
  (∀ s : State, s.refused = false → ∃ t, callCrc64 [] s = .next (.ok 0x0000000000000000#64, t))

/-- R82: a computation may be fed in pieces. -/
def Obligations.StreamingInPieces : Prop :=
  (∀ (lut : Lut) (r : Word) (s1 s2 : List Byte), updSeq lut r (s1 ++ s2) = updSeq lut (updSeq lut r s1) s2) ∧
  (∀ (s : State) (s1 s2 : List Byte), s.refused = false →
    ∃ t u v, runWords (updateWords s1) s = .next t ∧ runWords (updateWords s2) t = .next u ∧
      runWords (updateWords (s1 ++ s2)) s = .next v ∧ u.crc = v.crc ∧ v.crc = updSeq Config.lut s.crc (s1 ++ s2))

/-- R83: leading zero bytes are invisible, for every table the hardware may have. -/
def Obligations.LeadingZeroBytesAreInvisible : Prop :=
  ∀ lut : Lut, Admissible lut →
    (∀ (n : Nat) (cs : List Byte),
      crc64 lut (ordinals (List.replicate n 0x00#8 ++ cs)) = crc64 lut (ordinals cs)) ∧
    crc64 lut [0] = .ok 0#64 ∧ crc64 lut [] = .ok 0#64

/-- R84: one byte and two bytes, for every table, and the document's two-byte vector for every table the hardware may have. -/
def Obligations.OneAndTwoByteResults : Prop :=
  (∀ (lut : Lut) (c : Byte), crc64 lut (ordinals [c]) = .ok (lut c)) ∧
  (∀ (lut : Lut) (c1 c2 : Byte),
    crc64 lut (ordinals [c1, c2]) = .ok (lut (c2 ^^^ (lut c1).setWidth 8) ^^^ (lut c1 >>> 8))) ∧
  (∀ lut : Lut, Admissible lut → crc64 lut [0x01, 0x00] = .ok 0xB11BAC9C69B30140#64)

/-- R85: feeding the register's own low byte shifts it, eight such bytes bring it to zero, and distinct inputs of nine bytes
collide. -/
def Obligations.OwnLowBytesShiftTheRegisterOut : Prop :=
  ∀ lut : Lut, Admissible lut →
    (∀ r : Word, updByte lut r (r.setWidth 8) = r >>> 8 ∧ (fun x : Word => updByte lut x (x.setWidth 8))^[8] r = 0#64) ∧
    (∃ xs ys : List Byte, xs ≠ ys ∧ xs.length = 9 ∧ ys.length = 9 ∧ crc64 lut (ordinals xs) = crc64 lut (ordinals ys))

/-- 42_stream_operation.md section 2: an input whose steps read only LUT indices 0 and 1 has the same result under every table the
hardware may have. -/
def Obligations.KnownEntriesFixTheResult : Prop :=
  ∀ (lut lut' : Lut) (cs : List Byte), Admissible lut → Admissible lut' →
    (∀ i ∈ indicesRead lut 0#64 cs, i = 0x00#8 ∨ i = 0x01#8) → crc64 lut (ordinals cs) = crc64 lut' (ordinals cs)

/-! ### Assembly -/

/-- R55: the three statements, immediates in decimal and hexadecimal of every size, no truncation, which texts are integers at all,
the lines of the three statements, comments, one command per line. The texts of the hexadecimal clause may begin with zeros, as the
spec's own programs write them (`0x01`, 95_test_vectors.md section 3). The premises of the `update` line shut out a text that is not
one operand; space, tab and carriage return are the blanks of log entry 8. -/
def Obligations.AssemblyFollowsTheSyntax : Prop :=
  assembleStatement ['i', 'n', 'i', 't'] [] = some [0x000#10] ∧
  assembleStatement ['f', 'i', 'n', 'a', 'l'] [] = some [0x200#10] ∧
  (∀ (t : List Char) (n : Nat), parseInteger t = some n → n ≤ 255 →
    assembleStatement ['u', 'p', 'd', 'a', 't', 'e'] [t] = some [0x100#10 ||| BitVec.ofNat 10 n]) ∧
  (∀ (t : List Char) (n : Nat), parseInteger t = some n → 255 < n →
    assembleStatement ['u', 'p', 'd', 'a', 't', 'e'] [t] = none) ∧
  (∀ t : List Char, parseInteger t = none → assembleStatement ['u', 'p', 'd', 'a', 't', 'e'] [t] = none) ∧
  (∀ n : Nat, parseInteger (Nat.toDigits 10 n) = some n) ∧
  (∀ n k : Nat, parseInteger ('0' :: 'x' :: (List.replicate k '0' ++ Nat.toDigits 16 n)) = some n) ∧
  (∀ (t : List Char) (n : Nat), parseInteger t = some n →
    (t ≠ [] ∧ ∀ c ∈ t, '0' ≤ c ∧ c ≤ '9') ∨
    (∃ ds, t = '0' :: 'x' :: ds ∧ ds ≠ [] ∧
      ∀ c ∈ ds, ('0' ≤ c ∧ c ≤ '9') ∨ ('a' ≤ c ∧ c ≤ 'f') ∨ ('A' ≤ c ∧ c ≤ 'F'))) ∧
  assembleLine ['i', 'n', 'i', 't'] = some [0x000#10] ∧
  assembleLine ['f', 'i', 'n', 'a', 'l'] = some [0x200#10] ∧
  (∀ t : List Char, ' ' ∉ t → '\t' ∉ t → '\r' ∉ t → ',' ∉ t → ';' ∉ t →
    assembleLine (['u', 'p', 'd', 'a', 't', 'e', ' '] ++ t) = assembleStatement ['u', 'p', 'd', 'a', 't', 'e'] [t]) ∧
  (∀ line comment : List Char, ';' ∉ line → assembleLine (line ++ ';' :: comment) = assembleLine line) ∧
  (∀ line : List Char, '\n' ∉ line → assemble line = assembleLine line) ∧
  (∀ line text : List Char, '\n' ∉ line →
    assemble (line ++ '\n' :: text) = (assembleLine line).bind fun ws => (assemble text).map fun more => ws ++ more)

/-- R56: the pseudo-instruction expands to `init`, one `update` per operand in order, `final`; with no operand to `init`, `final`. The
operands are the `<imm8>` of R55, read in order, one error making the whole an error, and a line `crc64 b0, b1, ..., b(n-1)` has them
as its operands. The premises of the line clause shut out texts that are not one operand each; the blanks are those of log entry 8. -/
def Obligations.PseudoInstructionExpands : Prop :=
  (∀ cs : List Byte, crc64Words cs = [0x000#10] ++ cs.map (fun c => 0x100#10 ||| c.setWidth 10) ++ [0x200#10]) ∧
  (∀ (t : List Char) (c : Byte), parseImmediate t = some c ↔
    ∃ n, parseInteger t = some n ∧ n ≤ 255 ∧ c = BitVec.ofNat 8 n) ∧
  (∀ (ts : List (List Char)) (cs : List Byte), parseImmediates ts = some cs ↔
    List.Forall₂ (fun t c => parseImmediate t = some c) ts cs) ∧
  (∀ (ts : List (List Char)) (cs : List Byte), parseImmediates ts = some cs →
    assembleStatement ['c', 'r', 'c', '6', '4'] ts = some (crc64Words cs)) ∧
  (∀ ts : List (List Char), parseImmediates ts = none → assembleStatement ['c', 'r', 'c', '6', '4'] ts = none) ∧
  assembleStatement ['c', 'r', 'c', '6', '4'] [] = some [0x000#10, 0x200#10] ∧
  assembleLine ['c', 'r', 'c', '6', '4'] = some [0x000#10, 0x200#10] ∧
  (∀ ts : List (List Char),
    (∀ t ∈ ts, t ≠ [] ∧ ' ' ∉ t ∧ '\t' ∉ t ∧ '\r' ∉ t ∧ ',' ∉ t ∧ ';' ∉ t) →
    assembleLine (['c', 'r', 'c', '6', '4', ' '] ++ [',', ' '].intercalate ts) =
      assembleStatement ['c', 'r', 'c', '6', '4'] ts)
end

