-- ==== Sys2Proof/Laws/Assembler.lean ====
section
/-! SUPPORT. What the pieces of the assembler do with a text: digits, blanks, fields. -/

namespace Sys2Proof.Machine

/-! ### Digits -/

/-- Digits after digits: the value read so far is the next reading's start. -/
theorem digitsValue_append (base acc : Nat) (cs ds : List Char) :
    digitsValue base acc (cs ++ ds) = (digitsValue base acc cs).bind fun v => digitsValue base v ds := by
  induction cs generalizing acc with
  | nil => rfl
  | cons c cs ih => cases h : digitValue base c <;> simp [digitsValue, h, ih]

theorem digitValue_digitChar {base d : Nat} (hb : base = 10 ∨ base = 16) (hd : d < base) :
    digitValue base d.digitChar = some d := by
  have h10 : ∀ d < 10, digitValue 10 d.digitChar = some d := by decide
  have h16 : ∀ d < 16, digitValue 16 d.digitChar = some d := by decide
  rcases hb with rfl | rfl
  · exact h10 d hd
  · exact h16 d hd

/-- Reading the digits of a number gives the number, without a bound. -/
theorem digitsValue_toDigits {base : Nat} (hb : base = 10 ∨ base = 16) (n : Nat) :
    digitsValue base 0 (base.toDigits n) = some n := by
  have h1 : 1 < base := by omega
  induction n using Nat.strongRecOn with
  | ind n ih =>
    rcases Nat.lt_or_ge n base with h | h
    · simp [Nat.toDigits_of_lt_base h, digitsValue, digitValue_digitChar hb h]
    · have hm := Nat.mod_lt n (Nat.lt_trans Nat.zero_lt_one h1)
      rw [Nat.toDigits_of_base_le h1 h, digitsValue_append, ih _ (Nat.div_lt_self (by omega) h1)]
      simp [digitsValue, digitValue_digitChar hb hm, Nat.div_add_mod']

/-- A text that reads as a number in some base has digits of that base alone. -/
theorem digitsValue_digits {base acc n : Nat} {cs : List Char} (h : digitsValue base acc cs = some n) :
    ∀ c ∈ cs, ∃ d, digitValue base c = some d := by
  induction cs generalizing acc with
  | nil => simp
  | cons c cs ih =>
    simp only [digitsValue] at h
    obtain ⟨d, hd, hcs⟩ := Option.bind_eq_some_iff.1 h
    exact List.forall_mem_cons.2 ⟨⟨d, hd⟩, ih hcs⟩

/-! ### Blanks -/

theorem isBlank_iff (c : Char) : isBlank c = true ↔ c = ' ' ∨ c = '\t' ∨ c = '\r' := by
  simp [isBlank, or_assoc]

/-- A text without a blank stays as it is. -/
theorem trim_of_no_blank {cs : List Char} (h : ∀ c ∈ cs, isBlank c = false) : trim cs = cs := by
  have hd : ∀ l : List Char, (∀ c ∈ l, isBlank c = false) → l.dropWhile isBlank = l := by
    intro l hl
    cases l with
    | nil => rfl
    | cons c l => simp [hl c (by simp)]
  rw [trim, hd cs h, hd _ (by simpa using h), List.reverse_reverse]

theorem trim_cons_blank {b : Char} (hb : isBlank b = true) (cs : List Char) : trim (b :: cs) = trim cs := by
  simp [trim, hb]

/-- Only the ends of a text count: one that neither begins nor ends with a blank stays as it is. -/
theorem trim_of_ends {cs : List Char} (hh : ∀ c ∈ cs.head?, isBlank c = false)
    (hl : ∀ c ∈ cs.getLast?, isBlank c = false) : trim cs = cs := by
  have hd : ∀ l : List Char, (∀ c ∈ l.head?, isBlank c = false) → l.dropWhile isBlank = l := by
    intro l h
    cases l with
    | nil => rfl
    | cons c l => simp [h c (by simp)]
  rw [trim, hd cs hh, hd _ (by simpa using hl), List.reverse_reverse]

/-! ### Fields -/

theorem splitFields_of_not_mem {sep : Char} {cs : List Char} (h : sep ∉ cs) : splitFields sep cs = [cs] := by
  induction cs with
  | nil => rfl
  | cons c cs ih =>
    simp only [List.mem_cons, not_or] at h
    simp [splitFields, Ne.symm h.1, ih h.2]

theorem splitFields_append {sep : Char} {cs : List Char} (h : sep ∉ cs) (ds : List Char) :
    splitFields sep (cs ++ sep :: ds) = cs :: splitFields sep ds := by
  induction cs with
  | nil => simp [splitFields]
  | cons c cs ih =>
    simp only [List.mem_cons, not_or] at h
    simp [splitFields, Ne.symm h.1, ih h.2]

/-- The part of a text before a separator it does not hold is the text. -/
theorem takeWhile_ne_of_not_mem {sep : Char} {cs : List Char} (h : sep ∉ cs) :
    cs.takeWhile (fun c => c != sep) = cs := by
  rw [List.takeWhile_eq_self_iff]
  intro c hc
  simp only [bne_iff_ne]
  rintro rfl
  exact h hc

end Sys2Proof.Machine
end

