-- ==== Sys2Proof/Laws/Datapath.lean ====
section
/-! SUPPORT. One spec lemma per datapath unit; proofs cite these and do not unfold the units. -/

namespace Sys2Proof.Machine

@[simp] theorem lut_zero : Config.lut 0x00#8 = 0x0000000000000000#64 := rfl

@[simp] theorem lut_one : Config.lut 0x01#8 = 0xB1AA069AF3404101#64 := rfl

@[simp] theorem mask64_eq (a : Word) : mask64 a = a := by
  have : Config.truncationMask = BitVec.allOnes 64 := by decide
  rw [mask64, this, BitVec.and_allOnes]

@[simp] theorem fin_eq (a : Word) : fin a = a := by
  simp [fin, xor64, Config.xorOut]

/-- The index is the register's low byte XOR the input byte; the bits above do not matter. -/
theorem indexUnit_eq (crc : Word) (c : Byte) : indexUnit crc c = lowByte crc ^^^ c := by
  simp only [indexUnit, lowByte, xor64, zext64, Config.indexMask]
  ext i hi
  have : i = 0 ∨ i = 1 ∨ i = 2 ∨ i = 3 ∨ i = 4 ∨ i = 5 ∨ i = 6 ∨ i = 7 := by omega
  rcases this with rfl | rfl | rfl | rfl | rfl | rfl | rfl | rfl <;> simp

/-- One UPDATE in one line. -/
theorem updByte_eq (lut : Lut) (r : Word) (c : Byte) : updByte lut r c = lut (lowByte r ^^^ c) ^^^ r >>> 8 := by
  rw [updByte, indexUnit_eq, combine, mask64_eq]; rfl

end Sys2Proof.Machine
end

