-- ==== Sys2Proof/Laws/Decode.lean ====
section
/-! SUPPORT. The fields of an encoded command, and what the decoder says of a word by its fields. -/

namespace Sys2Proof

theorem fieldOp_encode_update (c : Byte) : fieldOp (encode (.update c)) = 1#2 := by
  simp only [fieldOp, encode]
  ext i hi
  have : i = 0 ∨ i = 1 := by omega
  rcases this with rfl | rfl <;> simp

theorem fieldData_encode_update (c : Byte) : fieldData (encode (.update c)) = c := by
  simp only [fieldData, encode]
  ext i hi
  have : i = 0 ∨ i = 1 ∨ i = 2 ∨ i = 3 ∨ i = 4 ∨ i = 5 ∨ i = 6 ∨ i = 7 := by omega
  rcases this with rfl | rfl | rfl | rfl | rfl | rfl | rfl | rfl <;> simp

/-- A word is its two fields (R47). -/
theorem fields_determine_word {v w : CmdWord} (ho : fieldOp v = fieldOp w) (hd : fieldData v = fieldData w) : v = w := by
  ext i hi
  rw [← BitVec.getLsbD_eq_getElem, ← BitVec.getLsbD_eq_getElem]
  by_cases h : i < 8
  · have := congrArg (fun x : Byte => x.getLsbD i) hd
    simpa [fieldData, h] using this
  · have := congrArg (fun x : BitVec 2 => x.getLsbD (i - 8)) ho
    have h2 : i - 8 < 2 := by omega
    have h3 : 8 + (i - 8) = i := by omega
    simpa [fieldOp, h2, h3] using this

/-- Everything the decoder can answer, with the fields it answers on (R51). -/
theorem decode_cases (w : CmdWord) :
    (fieldOp w = 1#2 ∧ decode w = .instr (.update (fieldData w))) ∨
    (fieldOp w = 0#2 ∧ fieldData w = 0#8 ∧ decode w = .instr .init) ∨
    (fieldOp w = 2#2 ∧ fieldData w = 0#8 ∧ decode w = .instr .final) ∨
    (fieldOp w = 3#2 ∧ decode w = .reserved .reservedOp) ∨
    ((fieldOp w = 0#2 ∨ fieldOp w = 2#2) ∧ fieldData w ≠ 0#8 ∧ decode w = .reserved .nonzeroData) := by
  have hop : ∀ x : BitVec 2, x = 0#2 ∨ x = 1#2 ∨ x = 2#2 ∨ x = 3#2 := by decide
  rcases hop (fieldOp w) with h | h | h | h <;> by_cases hd : fieldData w = 0#8 <;> simp [decode, h, hd]

/-- The two checks of a command word are exactly the decoder's: a word is legal when it decodes to a command (R57, R58). -/
theorem wordWellFormed_iff (w : CmdWord) : wordWellFormed w = true ↔ ∃ i, decode w = .instr i := by
  rcases decode_cases w with ⟨ho, hd⟩ | ⟨ho, hz, hd⟩ | ⟨ho, hz, hd⟩ | ⟨ho, hd⟩ | ⟨ho | ho, hz, hd⟩ <;>
    simp_all [fieldOp, fieldData, wordWellFormed, opIsAssigned, dataIsLegal]

theorem setWidth_eq_fieldData (w : CmdWord) : w.setWidth 8 = fieldData w := by
  rw [fieldData, BitVec.setWidth_eq_extractLsb' (by decide)]

theorem op_cases (x : BitVec 2) : x = 0#2 ∨ x = 1#2 ∨ x = 2#2 ∨ x = 3#2 := by
  revert x; decide

end Sys2Proof
end

