-- ==== Sys2Proof/Laws/PerInstr.lean ====
section
/-! SUPPORT. Laws that hold of every command, one lemma per constructor. Family LegalWord: a command is well formed, and its
encoding is a legal command word, never a reserved one (spec/30_encoding.md R57, R58). -/

namespace Sys2Proof.Laws.LegalWord

abbrev Statement (i : Instr) : Prop := i.wellFormed = true ∧ wordWellFormed (encode i) = true

theorem init : Statement .init := by decide

theorem update (c : Byte) : Statement (.update c) := by
  revert c; decide

theorem final : Statement .final := by decide

end Sys2Proof.Laws.LegalWord
end

