-- ==== Sys2Proof/Laws/Platform.lean ====
section
/-! SUPPORT. What one step of a platform does to each of its engines. -/

namespace Sys2Proof.Machine

/-- The engine that steps has advanced; every other is as it was. -/
theorem Platform.stepAt_engines {n : Nat} (p : Platform n) (j k : Fin n) :
    (p.stepAt k).engines[j] = if k = j then p.engines[k].advance else p.engines[j] := by
  simp only [Platform.stepAt, Fin.getElem_fin, Vector.getElem_set]
  by_cases h : k = j
  · simp [h]
  · simp only [h, if_false]
    rw [if_neg fun e => h (Fin.ext e)]

end Sys2Proof.Machine
end

