-- ==== Sys2Proof/Laws/State.lean ====
section
/-! SUPPORT. One lemma per field per update of the state, so that no proof unfolds a record update. -/

namespace Sys2Proof.Machine

@[simp] theorem State.writeCrc_crc (v : Word) (s : State) : (s.writeCrc v).crc = v := rfl
@[simp] theorem State.writeCrc_resValid (v : Word) (s : State) : (s.writeCrc v).resValid = s.resValid := rfl
@[simp] theorem State.writeCrc_resData (v : Word) (s : State) : (s.writeCrc v).resData = s.resData := rfl
@[simp] theorem State.writeCrc_refused (v : Word) (s : State) : (s.writeCrc v).refused = s.refused := rfl
@[simp] theorem State.writeCrc_input (v : Word) (s : State) : (s.writeCrc v).input = s.input := rfl
@[simp] theorem State.writeCrc_freeStream (v : Word) (s : State) : (s.writeCrc v).freeStream = s.freeStream := rfl
@[simp] theorem State.writeCrc_freeNext (v : Word) (s : State) : (s.writeCrc v).freeNext = s.freeNext := rfl

@[simp] theorem State.showResult_crc (v : Word) (s : State) : (s.showResult v).crc = s.crc := rfl
@[simp] theorem State.showResult_resValid (v : Word) (s : State) : (s.showResult v).resValid = true := rfl
@[simp] theorem State.showResult_resData (v : Word) (s : State) : (s.showResult v).resData = v := rfl
@[simp] theorem State.showResult_refused (v : Word) (s : State) : (s.showResult v).refused = s.refused := rfl
@[simp] theorem State.showResult_input (v : Word) (s : State) : (s.showResult v).input = s.input := rfl
@[simp] theorem State.showResult_freeStream (v : Word) (s : State) : (s.showResult v).freeStream = s.freeStream := rfl
@[simp] theorem State.showResult_freeNext (v : Word) (s : State) : (s.showResult v).freeNext = s.freeNext := rfl

@[simp] theorem State.dropResult_crc (s : State) : s.dropResult.crc = s.crc := rfl
@[simp] theorem State.dropResult_resValid (s : State) : s.dropResult.resValid = false := rfl
@[simp] theorem State.dropResult_resData (s : State) : s.dropResult.resData = Config.freeResData s.freeStream s.freeNext := rfl
@[simp] theorem State.dropResult_refused (s : State) : s.dropResult.refused = s.refused := rfl
@[simp] theorem State.dropResult_input (s : State) : s.dropResult.input = s.input := rfl
@[simp] theorem State.dropResult_freeStream (s : State) : s.dropResult.freeStream = s.freeStream := rfl
@[simp] theorem State.dropResult_freeNext (s : State) : s.dropResult.freeNext = s.freeNext + 1 := rfl

@[simp] theorem State.consumeInput_crc (s : State) : s.consumeInput.crc = s.crc := rfl
@[simp] theorem State.consumeInput_resValid (s : State) : s.consumeInput.resValid = s.resValid := rfl
@[simp] theorem State.consumeInput_resData (s : State) : s.consumeInput.resData = s.resData := rfl
@[simp] theorem State.consumeInput_refused (s : State) : s.consumeInput.refused = s.refused := rfl
@[simp] theorem State.consumeInput_input (s : State) : s.consumeInput.input = s.input.tail := rfl
@[simp] theorem State.consumeInput_freeStream (s : State) : s.consumeInput.freeStream = s.freeStream := rfl
@[simp] theorem State.consumeInput_freeNext (s : State) : s.consumeInput.freeNext = s.freeNext := rfl

@[simp] theorem State.load_crc (ws : List CmdWord) (s : State) : (s.load ws).crc = s.crc := rfl
@[simp] theorem State.load_resValid (ws : List CmdWord) (s : State) : (s.load ws).resValid = s.resValid := rfl
@[simp] theorem State.load_resData (ws : List CmdWord) (s : State) : (s.load ws).resData = s.resData := rfl
@[simp] theorem State.load_refused (ws : List CmdWord) (s : State) : (s.load ws).refused = s.refused := rfl
@[simp] theorem State.load_input (ws : List CmdWord) (s : State) : (s.load ws).input = ws.map Pins.command ++ s.input := rfl
@[simp] theorem State.load_freeStream (ws : List CmdWord) (s : State) : (s.load ws).freeStream = s.freeStream := rfl
@[simp] theorem State.load_freeNext (ws : List CmdWord) (s : State) : (s.load ws).freeNext = s.freeNext := rfl

@[simp] theorem State.markRefused_crc (s : State) : s.markRefused.crc = s.crc := rfl
@[simp] theorem State.markRefused_resValid (s : State) : s.markRefused.resValid = s.resValid := rfl
@[simp] theorem State.markRefused_resData (s : State) : s.markRefused.resData = s.resData := rfl
@[simp] theorem State.markRefused_refused (s : State) : s.markRefused.refused = true := rfl
@[simp] theorem State.markRefused_input (s : State) : s.markRefused.input = s.input := rfl
@[simp] theorem State.markRefused_freeStream (s : State) : s.markRefused.freeStream = s.freeStream := rfl
@[simp] theorem State.markRefused_freeNext (s : State) : s.markRefused.freeNext = s.freeNext := rfl

@[simp] theorem State.applyReset_crc (s : State) : s.applyReset.crc = Config.initValue := rfl
@[simp] theorem State.applyReset_resValid (s : State) : s.applyReset.resValid = false := rfl
@[simp] theorem State.applyReset_resData (s : State) : s.applyReset.resData = Config.freeResData s.freeStream s.freeNext := rfl
@[simp] theorem State.applyReset_refused (s : State) : s.applyReset.refused = s.refused := rfl
@[simp] theorem State.applyReset_input (s : State) : s.applyReset.input = s.input := rfl
@[simp] theorem State.applyReset_freeStream (s : State) : s.applyReset.freeStream = s.freeStream := rfl
@[simp] theorem State.applyReset_freeNext (s : State) : s.applyReset.freeNext = s.freeNext + 1 := rfl

@[simp] theorem State.holdResult_crc (s : State) : s.holdResult.crc = s.crc := by
  unfold State.holdResult; split <;> simp_all

@[simp] theorem State.holdResult_refused (s : State) : s.holdResult.refused = s.refused := by
  unfold State.holdResult; split <;> simp_all

@[simp] theorem State.holdResult_input (s : State) : s.holdResult.input = s.input := by
  unfold State.holdResult; split <;> simp_all

@[simp] theorem State.holdResult_freeStream (s : State) : s.holdResult.freeStream = s.freeStream := by
  unfold State.holdResult; split <;> simp_all

@[simp] theorem State.holdResult_resValid (s : State) : s.holdResult.resValid = s.resValid := by
  unfold State.holdResult; split <;> simp_all

/-- A result on the port holds. -/
theorem State.holdResult_of_valid {s : State} (h : s.resValid = true) : s.holdResult = s := by
  simp [State.holdResult, h]

/-- Without a result, `res_data` is drawn afresh and nothing else but the draw count changes. -/
theorem State.holdResult_of_invalid {s : State} (h : s.resValid = false) : s.holdResult = s.dropResult := by
  simp [State.holdResult, h]

@[simp] theorem State.pins_load_cons (w : CmdWord) (ws : List CmdWord) (s : State) :
    (s.load (w :: ws)).pins = Pins.command w := rfl

@[simp] theorem State.consumeInput_load_cons (w : CmdWord) (ws : List CmdWord) (s : State) :
    (s.load (w :: ws)).consumeInput = s.load ws := rfl

@[simp] theorem State.load_nil (s : State) : s.load [] = s := rfl

theorem State.load_append (ws vs : List CmdWord) (s : State) : s.load (ws ++ vs) = (s.load vs).load ws := by
  simp [State.load]

/-- Loading words commutes with every update that leaves the input alone. -/
theorem State.dropResult_writeCrc_load (v : Word) (ws : List CmdWord) (s : State) :
    ((s.load ws).writeCrc v).dropResult = ((s.writeCrc v).dropResult).load ws := rfl

theorem State.showResult_load (v : Word) (ws : List CmdWord) (s : State) :
    (s.load ws).showResult v = (s.showResult v).load ws := rfl

@[simp] theorem State.portOutput_dropResult (s : State) : s.dropResult.portOutput = none := by
  simp [State.portOutput]

theorem State.portOutput_showResult {s : State} (v : Word) (h : s.refused = false) :
    (s.showResult v).portOutput = some v := by
  simp [State.portOutput, h]

@[simp] theorem State.portOutput_markRefused (s : State) : s.markRefused.portOutput = none := by
  simp [State.portOutput]

@[simp] theorem Pins.command_rst (w : CmdWord) : (Pins.command w).rst = false := rfl
@[simp] theorem Pins.command_cmdValid (w : CmdWord) : (Pins.command w).cmdValid = true := rfl
@[simp] theorem Pins.command_cmdWord (w : CmdWord) : (Pins.command w).cmdWord = w := rfl

end Sys2Proof.Machine
end

