-- ==== Sys2Proof/Laws/Step.lean ====
section
/-! SUPPORT. What exec, the port and a step can do, said once. -/

namespace Sys2Proof.Machine

theorem exec_init (s : State) : exec .init s = .next (s.writeCrc Config.initValue).dropResult := rfl

theorem exec_update (c : Byte) (s : State) :
    exec (.update c) s = .next (s.writeCrc (updByte Config.lut s.crc c)).dropResult := rfl

theorem exec_final (s : State) : exec .final s = .next (s.showResult (fin s.crc)) := rfl

/-- Every command answers a next state. -/
theorem exec_completes (i : Instr) (s : State) : ∃ t, exec i s = .next t := by
  cases i
  · exact ⟨_, exec_init s⟩
  · exact ⟨_, exec_update _ s⟩
  · exact ⟨_, exec_final s⟩

/-- No command writes the refused mark, the input or the stream of free values. -/
theorem exec_keeps {i : Instr} {s t : State} (h : exec i s = .next t) :
    t.refused = s.refused ∧ t.input = s.input ∧ t.freeStream = s.freeStream := by
  cases i
  · rw [exec_init] at h; cases h; simp
  · rw [exec_update] at h; cases h; simp
  · rw [exec_final] at h; cases h; simp

/-- All that a step with a next state can have been. -/
theorem step_cases {s t : State} (h : step s = .next t) :
    s.refused = false ∧
    ((s.pins.rst = true ∧ t = s.consumeInput.applyReset) ∨
     (s.pins.rst = false ∧ s.pins.cmdValid = true ∧
       ∃ i, decode s.pins.cmdWord = .instr i ∧ exec i s.consumeInput = .next t) ∨
     (s.pins.rst = false ∧ s.pins.cmdValid = false ∧ t = s.consumeInput.holdResult)) := by
  simp only [step, runStep] at h
  split at h
  · cases h
  · rename_i hr
    refine ⟨by simpa using hr, ?_⟩
    simp only [portEdge] at h
    split at h
    · cases h; exact .inl ⟨‹_›, rfl⟩
    · split at h
      · simp only [acceptWord] at h
        split at h
        · rename_i i hi; exact .inr (.inl ⟨by simp_all, ‹_›, i, hi, h⟩)
        · cases h
        · cases h
      · cases h; exact .inr (.inr ⟨by simp_all, by simp_all, rfl⟩)

/-- A step with `rst = 1`. -/
theorem step_of_rst {s : State} (h : s.refused = false) (hr : s.pins.rst = true) :
    step s = .next s.consumeInput.applyReset := by
  simp [step, runStep, portEdge, h, hr]

/-- A step that accepts a word. -/
theorem step_of_word {s : State} (h : s.refused = false) (hr : s.pins.rst = false) (hv : s.pins.cmdValid = true) :
    step s = acceptWord s.pins.cmdWord s.consumeInput := by
  simp [step, runStep, portEdge, h, hr, hv]

/-- A step that accepts nothing. -/
theorem step_of_idle {s : State} (h : s.refused = false) (hr : s.pins.rst = false) (hv : s.pins.cmdValid = false) :
    step s = .next s.consumeInput.holdResult := by
  simp [step, runStep, portEdge, h, hr, hv]

/-- A step of a refused run. -/
theorem step_of_refused {s : State} (h : s.refused = true) : step s = .refused .runRefused := by
  simp [step, runStep, h]

/-- A step on a presented word is the engine's step on that word. -/
theorem step_load_cons {s : State} (w : CmdWord) (ws : List CmdWord) (h : s.refused = false) :
    step (s.load (w :: ws)) = acceptWord w (s.load ws) := by
  simp [step, runStep, portEdge, h]

theorem acceptWord_instr {w : CmdWord} {i : Instr} (s : State) (h : decode w = .instr i) : acceptWord w s = exec i s := by
  simp [acceptWord, h]

theorem core_run_zero (s : State) : Sys2Proof.core.run 0 s = .next s := rfl

theorem core_run_succ_of_next {s t : State} (k : Nat) (h : step s = .next t) :
    Sys2Proof.core.run (k + 1) s = Sys2Proof.core.run k t := by
  have h' : Sys2Proof.core.step s = .next t := h
  simp only [Host.Core.run, h']

theorem core_run_succ_of_refused {s : State} {r : Refusal} (k : Nat) (h : step s = .refused r) :
    Sys2Proof.core.run (k + 1) s = .refused r := by
  have h' : Sys2Proof.core.step s = .refused r := h
  simp only [Host.Core.run, h']

theorem runWords_nil (s : State) : runWords [] s = .next s := rfl

/-- Running a word, then the rest. -/
theorem runWords_cons_of_next {s t : State} (w : CmdWord) (ws : List CmdWord)
    (h : step (s.load (w :: ws)) = .next (t.load ws)) : runWords (w :: ws) s = runWords ws t := by
  simp only [runWords, List.length_cons]
  exact core_run_succ_of_next _ h

/-- A command does the same whatever the host drives after it. -/
theorem exec_load {i : Instr} {s t : State} (ws : List CmdWord) (h : exec i s = .next t) :
    exec i (s.load ws) = .next (t.load ws) := by
  cases i
  · rw [exec_init] at h; cases h; rfl
  · rw [exec_update] at h; cases h; rfl
  · rw [exec_final] at h; cases h; rfl

/-- The words after a legal one run from the state its command leaves. -/
theorem runWords_cons {s t : State} {w : CmdWord} {i : Instr} (ws : List CmdWord) (hs : s.refused = false)
    (hd : decode w = .instr i) (h : exec i s = .next t) : runWords (w :: ws) s = runWords ws t :=
  runWords_cons_of_next w ws (by rw [step_load_cons w ws hs, acceptWord_instr _ hd, exec_load ws h])

theorem advance_of_next {s t : State} (h : step s = .next t) : s.advance = t := by
  simp [State.advance, h]

theorem advance_of_refused {s : State} {r : Refusal} (h : step s = .refused r) : s.advance = s.markRefused := by
  simp [State.advance, h]

end Sys2Proof.Machine
end

