-- ==== Sys2Proof/Laws/Stream.lean ====
section
/-! SUPPORT. What the input check answers, and the bytes behind the ordinals a host passes. -/

namespace Sys2Proof.Machine

theorem isByteOrdinal_iff (x : Int) : isByteOrdinal x = true ↔ 0 ≤ x ∧ x ≤ 255 := by
  simp [isByteOrdinal]

/-- The check finds nothing exactly where every element is a byte ordinal. -/
theorem firstOffender_eq_none_iff {k : Nat} {xs : List Int} :
    firstOffender k xs = none ↔ ∀ x ∈ xs, 0 ≤ x ∧ x ≤ 255 := by
  induction xs generalizing k with
  | nil => simp [firstOffender]
  | cons x xs ih =>
    simp only [firstOffender]
    split <;> simp_all [isByteOrdinal]

/-- What the check reports is an element of the input at the position it names, and no byte ordinal. -/
theorem firstOffender_spec {b k : Nat} {x : Int} {xs : List Int} (h : firstOffender b xs = some (k, x)) :
    ∃ j, k = b + j ∧ xs[j]? = some x ∧ isByteOrdinal x = false := by
  induction xs generalizing b with
  | nil => cases h
  | cons y ys ih =>
    simp only [firstOffender] at h
    split at h
    · obtain ⟨j, hk, hx, hb⟩ := ih h
      exact ⟨j + 1, by omega, by simpa using hx, hb⟩
    · cases h
      exact ⟨0, rfl, rfl, by simp_all⟩

theorem byteOfInt_toNat (c : Byte) : byteOfInt (c.toNat : Int) = c := by
  simp [byteOfInt]

/-- The bytes of a byte sequence's ordinals are that sequence. -/
theorem map_byteOfInt_ordinals (cs : List Byte) : (ordinals cs).map byteOfInt = cs := by
  simp [ordinals, Function.comp_def, byteOfInt_toNat]

/-- A byte sequence passes the check. -/
theorem firstOffender_ordinals (k : Nat) (cs : List Byte) : firstOffender k (ordinals cs) = none := by
  rw [firstOffender_eq_none_iff]
  intro x hx
  obtain ⟨c, _, rfl⟩ := List.mem_map.1 hx
  have := c.isLt
  omega

end Sys2Proof.Machine
end

