-- ==== Sys2Proof/Tests/Slice0.lean ====
section
/-! SUPPORT. Tests: well-formedness, decoding, one step of each command, and for every statement with hypotheses a concrete case that
meets them. Expected values are the spec's own (spec/95_test_vectors.md, spec/30_encoding.md R54) or worked by hand from its rules. -/

namespace Sys2Proof.Tests

open Sys2Proof.Machine

/-! ### Helpers -/

/-- A state with the register `crc` and the word `w` presented next. -/
def withWord (crc : Word) (w : CmdWord) : State := { State.reset with crc := crc, input := [Pins.command w] }

/-- A state with a result on the port and the pins `p` next. -/
def withResult (crc : Word) (p : Pins) : State :=
  { State.reset with crc := crc, resValid := true, resData := crc, input := [p] }

def crcOf : Host.Outcome State Fault Refusal → Option Word
  | .next t => some t.crc
  | _ => none

def outputOf : Host.Outcome State Fault Refusal → Option (Option Word)
  | .next t => some t.portOutput
  | _ => none

def refusalOf : Host.Outcome State Fault Refusal → Option Refusal
  | .refused r => some r
  | _ => none

/-! ### Well-formedness: each check refuses an ill-formed term (R57) -/

theorem test_wf_reserved_op : opIsAssigned 0b1100000000#10 = false ∧ wordWellFormed 0x300#10 = false := by decide
theorem test_wf_nonzero_data_init : dataIsLegal 0b0000000001#10 = false ∧ wordWellFormed 0x001#10 = false := by decide
theorem test_wf_nonzero_data_final : dataIsLegal 0b1011111111#10 = false ∧ wordWellFormed 0x2FF#10 = false := by decide
theorem test_wf_legal : wordWellFormed 0x000#10 ∧ wordWellFormed 0x1FF#10 ∧ wordWellFormed 0x200#10 := by decide
theorem test_not_a_byte : isByteOrdinal (-1) = false ∧ isByteOrdinal 256 = false ∧ isByteOrdinal 255 = true := by decide

/-! ### Decoding: words bit by bit from R47, R48 and R54 -/

theorem test_decode_init : decode 0b0000000000#10 = .instr .init := by decide
theorem test_decode_update : decode 0b0110100101#10 = .instr (.update 0xA5#8) := by decide
theorem test_decode_final : decode 0b1000000000#10 = .instr .final := by decide
theorem test_table_words : decodeTableWord 16 0x000 = some .init ∧ decodeTableWord 16 0x1FF = some (.update 0xFF#8) ∧
    decodeTableWord 16 0x200 = some .final ∧ decodeTableWord 16 0x300 = none ∧ decodeTableWord 16 0x400 = none := by decide

/-! ### One step of each command (95_test_vectors.md section 2.3) -/

theorem test_init_clears : crcOf (step (withWord 0xB1AA069AF3404101#64 0x000#10)) = some 0#64 := by decide
theorem test_init_no_output : outputOf (exec .init (withResult 5#64 Pins.idle)) = some none := by decide
theorem test_update_index_one :
    crcOf (step (withWord 0x0123456789ABCDEF#64 0x1EE#10)) = some 0xB1AB25DF94C9EACC#64 := by decide
theorem test_update_zero_fill :
    crcOf (step (withWord 0xFFFFFFFFFFFFFFFF#64 0x1FF#10)) = some 0x00FFFFFFFFFFFFFF#64 := by decide
theorem test_final_output :
    outputOf (step (withWord 0xB11BAC9C69B30140#64 0x200#10)) = some (some 0xB11BAC9C69B30140#64) := by decide
theorem test_final_keeps_crc :
    crcOf (step (withWord 0xB11BAC9C69B30140#64 0x200#10)) = some 0xB11BAC9C69B30140#64 := by decide

theorem test_reserved_refused : refusalOf (step (withWord 0#64 0x300#10)) = some .reservedOp ∧
    refusalOf (step (withWord 0#64 0x080#10)) = some .nonzeroData := by decide
theorem test_rst_beats_word :
    crcOf (step { State.reset with crc := 7#64, input := [{ Pins.command 0x101#10 with rst := true }] }) = some 0#64 := by decide
theorem test_placed_word_first : crcOf (step (State.reset.withFetchWord 16 0x101)) = some 0xB1AA069AF3404101#64 ∧
    crcOf (step (State.reset.withFetchWord 16 0x000)) = some 0#64 ∧
    outputOf (step (State.reset.withFetchWord 16 0x200)) = some (some 0#64) := by decide

/-- `update 0x01 ; comment` and `crc64 0x01, 0` (R55, R56). -/
theorem test_assemble :
    assembleLine ['u', 'p', 'd', 'a', 't', 'e', ' ', '0', 'x', '0', '1', ' ', ';', ' ', 'c'] = some [0x101#10] ∧
    assembleLine ['c', 'r', 'c', '6', '4', ' ', '0', 'x', '0', '1', ',', ' ', '0'] =
      some [0x000#10, 0x101#10, 0x100#10, 0x200#10] ∧
    assembleLine ['u', 'p', 'd', 'a', 't', 'e', ' ', '2', '5', '6'] = none := by decide

/-! ### Witnesses: what meets the hypotheses of each statement -/

theorem witness_DecodedWordIsItsEncoding : decode 0x1FF#10 = .instr (.update 0xFF#8) := by decide
theorem witness_DecodingFollowsTheOpcodeMap : 0x300#10 &&& 0x3FF#10 ≠ 0x000#10 ∧ 0x300#10 &&& 0x300#10 ≠ 0x100#10 ∧
    0x300#10 &&& 0x3FF#10 ≠ 0x200#10 := by decide
theorem witness_DecodingCoversAllWords : (0x1FF#10).extractLsb' 8 2 = 0b01#2 ∧
    ((0x000#10).extractLsb' 8 2 = 0b00#2 ∧ (0x000#10).extractLsb' 0 8 = 0#8) ∧
    ((0x200#10).extractLsb' 8 2 = 0b10#2 ∧ (0x200#10).extractLsb' 0 8 = 0#8) ∧ (0x300#10).extractLsb' 8 2 = 0b11#2 ∧
    ((0x001#10).extractLsb' 8 2 = 0b00#2 ∧ (0x001#10).extractLsb' 0 8 ≠ 0#8) ∧
    ((0x2FF#10).extractLsb' 8 2 = 0b10#2 ∧ (0x2FF#10).extractLsb' 0 8 ≠ 0#8) := by decide
theorem witness_UpdateTakesOneTableStep : (0x1FF#64).setWidth 8 = (0xFF#64).setWidth 8 := by decide
theorem witness_CommandsFrame : (∃ t, exec .init State.reset = .next t) ∧ (∃ t, exec (.update 0xFF#8) State.reset = .next t) ∧
    (∃ t, exec .final State.reset = .next t) := ⟨⟨_, rfl⟩, ⟨_, rfl⟩, ⟨_, rfl⟩⟩
theorem witness_StepRunsTheDecodedCommand :
    (withWord 1#64 0x101#10).Accepts 0x101#10 ∧ decode 0x101#10 = .instr (.update 0x01#8) := by decide
theorem witness_PlacedWordRunsNext : decodeTableWord 10 0x1FF = some (.update 0xFF#8) := by decide
theorem witness_ReservedWordsAreRefusedByClass :
    ((withWord 1#64 0x300#10).Accepts 0x300#10 ∧ (0x300#10).extractLsb' 8 2 = 0b11#2 ∧ wordWellFormed 0x300#10 = false) ∧
    ((withWord 1#64 0x201#10).Accepts 0x201#10 ∧ (0x201#10).extractLsb' 8 2 = 0b10#2 ∧ (0x201#10).extractLsb' 0 8 ≠ 0#8) ∧
    ((withWord 1#64 0x001#10).Accepts 0x001#10 ∧ (0x001#10).extractLsb' 8 2 = 0b00#2 ∧ (0x001#10).extractLsb' 0 8 ≠ 0#8) := by
  decide
theorem witness_EveryLegalWordCompletes : ((withWord 1#64 0x1FF#10).Accepts 0x1FF#10 ∧ wordWellFormed 0x1FF#10 = true) ∧
    refusalOf (step (withWord 1#64 0x3FF#10)) = some .reservedOp := by decide
theorem witness_EveryLegalWordCompletes_error :
    callCrc64 [0x01, 0x100, 0x00] State.reset = .next (.invalidInput 1 256, State.reset) := rfl
theorem witness_StepIsTheSpecsEngineStep : (withWord 1#64 0x200#10).Accepts 0x200#10 := by decide
theorem witness_AssertingRstResets : let s : State := { State.reset with input := [Pins.reset] }
    s.refused = false ∧ s.pins.rst = true := by decide
theorem witness_ResultHoldsUntilTheNextWord :
    ((withWord 1#64 0x200#10).Accepts 0x200#10 ∧ decode 0x200#10 = .instr .final) ∧
    ((withResult 1#64 Pins.idle).refused = false ∧ (withResult 1#64 Pins.idle).pins.rst = false ∧
      (withResult 1#64 Pins.idle).pins.cmdValid = false ∧ (withResult 1#64 Pins.idle).resValid = true) ∧
    ((withResult 1#64 (Pins.command 0x100#10)).Accepts 0x100#10 ∧ decode 0x100#10 = .instr (.update 0x00#8)) ∧
    ((withResult 1#64 Pins.reset).refused = false ∧ (withResult 1#64 Pins.reset).pins.rst = true) := by decide
theorem witness_IdleEdgeLeavesTheEngine : State.reset.refused = false ∧ State.reset.pins.rst = false ∧
    State.reset.pins.cmdValid = false ∧ State.reset.resValid = false := by decide
theorem witness_StepKeepsResultCurrent :
    (withResult 1#64 Pins.idle).ResultIsCurrent ∧ outputOf (step (withResult 1#64 Pins.idle)) = some (some 1#64) := by decide
theorem witness_RefusedMarkIsSticky : State.reset.markRefused.refused = true ∧ (withWord 1#64 0x300#10).Accepts 0x300#10 := by
  decide
theorem witness_OnlyFinalShowsTheRegister :
    ¬ (withWord 1#64 0x000#10).Accepts (encode .final) ∧ ∃ t, step (withWord 1#64 0x000#10) = .next t :=
  ⟨by decide, ⟨_, rfl⟩⟩
theorem witness_WordsTakeEffectInOrder : ∃ t, runWords [0x000#10, 0x101#10] State.reset = .next t := ⟨_, rfl⟩
theorem witness_InitForgetsAndFinalIsInvisible : State.reset.refused = false ∧ (State.resetOf 1).refused = false ∧
    State.reset.crc = (State.resetOf 1).crc := by decide
/-- Also the premises of StepKeepsTheHostDutiful. -/
theorem witness_DutifulHostNeverStops : (withWord 1#64 0x1FF#10).refused = false ∧ (withWord 1#64 0x1FF#10).hostObeys = true := by
  decide
theorem witness_InstancesNeverInterfere : (0 : Fin 2) ≠ 1 := by decide
theorem witness_IndexUsesOnlyTheLowByte : (0x5A00#64).setWidth 8 = (0#64).setWidth 8 := by decide
theorem witness_ShiftIsLogicalByEight : ∀ i, 8 ≤ i → (0x1FF#64).getLsbD i = (0x100#64).getLsbD i := by
  intro i hi
  rcases Nat.lt_or_ge i 64 with h | h
  · have : ∀ j : Fin 64, 8 ≤ j.val → (0x1FF#64).getLsbD j.val = (0x100#64).getLsbD j.val := by decide
    exact this ⟨i, h⟩ hi
  · rw [BitVec.getLsbD_of_ge _ _ h, BitVec.getLsbD_of_ge _ _ h]
/-- Also the premise of UpdateWordsComputeTheFold, HostCallReturnsCrc64 (first clause), EmptySequenceYieldsZero and
StreamingInPieces. -/
theorem witness_unrefused_state : (withWord 1#64 0x1FF#10).refused = false := by decide
theorem witness_HostCallReturnsCrc64 : ∀ x ∈ ([0, 255] : List Int), 0 ≤ x ∧ x ≤ 255 := by decide
theorem witness_InvalidInputReportsTheLowestIndex :
    (([255, -1, 256] : List Int)[1]? = some (-1) ∧ ¬ (0 ≤ (-1 : Int) ∧ (-1 : Int) ≤ 255) ∧
      ∀ (j : Nat) (y : Int), j < 1 → ([255, -1, 256] : List Int)[j]? = some y → 0 ≤ y ∧ y ≤ 255) ∧
    (([0, 256] : List Int)[1]? = some 256 ∧ ¬ (0 ≤ (256 : Int) ∧ (256 : Int) ≤ 255)) := by
  refine ⟨⟨rfl, by decide, ?_⟩, rfl, by decide⟩
  intro j y hj hy
  obtain rfl : j = 0 := by omega
  simp at hy; omega
/-- The premise of LeadingZeroBytesAreInvisible, OneAndTwoByteResults, OwnLowBytesShiftTheRegisterOut and
KnownEntriesFixTheResult: the table of this hardware is one that R5 allows. -/
theorem witness_lut_is_admissible : Admissible Config.lut := ⟨rfl, rfl⟩
theorem witness_KnownEntriesFixTheResult :
    ∀ i ∈ indicesRead Config.lut 0#64 [0x01#8, 0x01#8], i = 0x00#8 ∨ i = 0x01#8 := by decide
theorem witness_AssemblyFollowsTheSyntax : parseInteger ['0', 'x', 'F', 'F'] = some 255 ∧
    parseInteger ['2', '5', '6'] = some 256 ∧ parseInteger ['-', '1'] = none ∧ ';' ∉ ['i', 'n', 'i', 't'] ∧
    '\n' ∉ ['i', 'n', 'i', 't'] := by decide
/-- The premises of the `update` line, and of the line of `crc64` (PseudoInstructionExpands). -/
theorem witness_operand_text : ['0', 'x', '0', '1'] ≠ [] ∧ ' ' ∉ ['0', 'x', '0', '1'] ∧ '\t' ∉ ['0', 'x', '0', '1'] ∧
    '\r' ∉ ['0', 'x', '0', '1'] ∧ ',' ∉ ['0', 'x', '0', '1'] ∧ ';' ∉ ['0', 'x', '0', '1'] := by decide
theorem witness_PseudoInstructionExpands : parseImmediates [['2', '5', '5'], ['0']] = some [0xFF#8, 0x00#8] ∧
    parseImmediates [['0'], ['2', '5', '6']] = none := by decide

end Sys2Proof.Tests
end

