-- ==== Sys2Proof/Proofs/State.lean ====
section
/-! SUPPORT. The refused mark of one engine (spec/10_state.md R25) and the engines of a platform side by side (R24; spec/20_memory.md
R40; spec/60_exceptions.md R99). -/

namespace Sys2Proof.Machine

/-! ### The step on an accepted word -/

/-- A word is reserved when the decoder answers one of R57's classes. -/
theorem wordWellFormed_eq_false_iff (w : CmdWord) : wordWellFormed w = false ↔ ∃ r, decode w = .reserved r := by
  rw [← Bool.not_eq_true, wordWellFormed_iff]
  cases decode w <;> simp

theorem acceptWord_reserved {w : CmdWord} {r : ReservedReason} (s : State) (h : decode w = .reserved r) :
    ∃ q, acceptWord w s = .refused q := by
  cases r <;> simp [acceptWord, h]

theorem step_of_accepts {s : State} {w : CmdWord} (h : s.Accepts w) : step s = acceptWord w s.consumeInput := by
  obtain ⟨href, hrst, hvalid, rfl⟩ := h
  exact step_of_word href hrst hvalid

/-- A step with a next state does not set the mark: it starts unmarked, and neither a command, nor `rst`, nor an idle edge
writes it. -/
theorem step_next_refused {s t : State} (h : step s = .next t) : t.refused = false := by
  obtain ⟨href, ⟨-, rfl⟩ | ⟨-, -, i, -, hexec⟩ | ⟨-, -, rfl⟩⟩ := step_cases h
  · simp [href]
  · obtain ⟨hmark, -, -⟩ := exec_keeps hexec
    simp [hmark, href]
  · simp [href]

/-! ### The refused mark -/

/-- Accepting a word sets the mark exactly where the word is reserved (R25, R57). -/
theorem advance_refused_of_accepts {s : State} {w : CmdWord} (h : s.Accepts w) :
    s.advance.refused = true ↔ wordWellFormed w = false := by
  cases hd : decode w with
  | instr i =>
    obtain ⟨t, ht⟩ := exec_completes i s.consumeInput
    have hstep : step s = .next t := by rw [step_of_accepts h, acceptWord_instr _ hd, ht]
    simp [advance_of_next hstep, step_next_refused hstep, (wordWellFormed_iff w).2 ⟨i, hd⟩]
  | reserved r =>
    obtain ⟨q, hq⟩ := acceptWord_reserved s.consumeInput hd
    have hstep : step s = .refused q := by rw [step_of_accepts h, hq]
    simp [advance_of_refused hstep, (wordWellFormed_eq_false_iff w).2 ⟨r, hd⟩]

theorem State.markRefused_of_refused {s : State} (h : s.refused = true) : s.markRefused = s := by
  simp [State.markRefused, ← h]

/-- A marked run stands still. -/
theorem advance_of_marked {s : State} (h : s.refused = true) : s.advance = s := by
  rw [advance_of_refused (step_of_refused h), State.markRefused_of_refused h]

/-- Settles O21: a marked state is a fixed point of `advance`, so the mark outlasts any number of steps. -/
theorem refusedMarkIsSticky : Obligations.RefusedMarkIsSticky := by
  unfold Obligations.RefusedMarkIsSticky
  refine ⟨rfl, fun _ _ => advance_refused_of_accepts, fun s k h => ?_, State.applyReset_refused, fun s t h => ?_⟩
  · rw [Function.iterate_fixed (advance_of_marked h), h]
  · simp [step_of_refused h]

/-! ### Several engines -/

/-- Presenting a word to an engine loads it there; every other engine is as it was. -/
theorem Platform.present_engines {n : Nat} (p : Platform n) (j k : Fin n) (w : CmdWord) :
    (p.present k w).engines[j] = if k = j then p.engines[k].load [w] else p.engines[j] := by
  simp only [Platform.present, Fin.getElem_fin, Vector.getElem_set, Fin.ext_iff]

/-- A schedule advances an engine once for each of its own turns, whatever stands between them. -/
theorem Platform.run_engines {n : Nat} (ks : List (Fin n)) (k : Fin n) (p : Platform n) :
    (Platform.run ks p).engines[k] = State.advance^[ks.count k] p.engines[k] := by
  induction ks generalizing p with
  | nil => rfl
  | cons j ks ih =>
    rw [Platform.run, ih, Platform.stepAt_engines]
    by_cases hj : j = k
    · subst hj
      rw [if_pos rfl, List.count_cons_self, Function.iterate_succ_apply]
    · rw [if_neg hj, List.count_cons_of_ne hj]

/-- Settles O28, by induction on the schedule. -/
theorem instancesNeverInterfere : Obligations.InstancesNeverInterfere := by
  unfold Obligations.InstancesNeverInterfere
  refine fun n p => ⟨fun ks k => Platform.run_engines ks k p, fun j k w hjk => ⟨?_, ?_⟩⟩
  · rw [Platform.present_engines, if_neg hjk.symm]
  · rw [Platform.stepAt_engines, if_neg hjk.symm]

end Sys2Proof.Machine
end

/-! SUPPORT. The encoding (spec/30_encoding.md): the decoder by the match and mask of R54 and by the number of the word, the result
port over a step (R52), and the assembler (R55, R56). -/

namespace Sys2Proof

/-! ### The outcomes by the fields -/

theorem decode_eq_init_iff (w : CmdWord) : decode w = .instr .init ↔ fieldOp w = 0#2 ∧ fieldData w = 0#8 := by
  rcases decode_cases w with ⟨ho, hd⟩ | ⟨ho, hz, hd⟩ | ⟨ho, hz, hd⟩ | ⟨ho, hd⟩ | ⟨ho | ho, hz, hd⟩ <;> simp_all

theorem decode_eq_update_iff (w : CmdWord) (c : Byte) :
    decode w = .instr (.update c) ↔ fieldOp w = 1#2 ∧ fieldData w = c := by
  rcases decode_cases w with ⟨ho, hd⟩ | ⟨ho, hz, hd⟩ | ⟨ho, hz, hd⟩ | ⟨ho, hd⟩ | ⟨ho | ho, hz, hd⟩ <;> simp_all

theorem decode_eq_final_iff (w : CmdWord) : decode w = .instr .final ↔ fieldOp w = 2#2 ∧ fieldData w = 0#8 := by
  rcases decode_cases w with ⟨ho, hd⟩ | ⟨ho, hz, hd⟩ | ⟨ho, hz, hd⟩ | ⟨ho, hd⟩ | ⟨ho | ho, hz, hd⟩ <;> simp_all

theorem decode_eq_reservedOp_iff (w : CmdWord) : decode w = .reserved .reservedOp ↔ fieldOp w = 3#2 := by
  rcases decode_cases w with ⟨ho, hd⟩ | ⟨ho, hz, hd⟩ | ⟨ho, hz, hd⟩ | ⟨ho, hd⟩ | ⟨ho | ho, hz, hd⟩ <;> simp_all

theorem decode_eq_nonzeroData_iff (w : CmdWord) :
    decode w = .reserved .nonzeroData ↔ (fieldOp w = 0#2 ∨ fieldOp w = 2#2) ∧ fieldData w ≠ 0#8 := by
  rcases decode_cases w with ⟨ho, hd⟩ | ⟨ho, hz, hd⟩ | ⟨ho, hz, hd⟩ | ⟨ho, hd⟩ | ⟨ho | ho, hz, hd⟩ <;> simp_all

/-! ### Match and mask -/

theorem word_eq_iff_fields (v w : CmdWord) : v = w ↔ fieldOp v = fieldOp w ∧ fieldData v = fieldData w :=
  ⟨by rintro rfl; exact ⟨rfl, rfl⟩, fun ⟨ho, hd⟩ => fields_determine_word ho hd⟩

theorem fieldOp_and (v w : CmdWord) : fieldOp (v &&& w) = fieldOp v &&& fieldOp w := BitVec.extractLsb'_and

theorem fieldData_and (v w : CmdWord) : fieldData (v &&& w) = fieldData v &&& fieldData w := BitVec.extractLsb'_and

/-- The mask of INIT and FINAL covers the whole word. -/
theorem and_fullMask (w : CmdWord) : w &&& 0x3FF#10 = w := BitVec.and_allOnes

/-- The mask of UPDATE keeps the field `op` alone. -/
theorem and_opMask_eq_iff (w : CmdWord) : w &&& 0x300#10 = 0x100#10 ↔ fieldOp w = 1#2 := by
  have hop : fieldOp w &&& fieldOp 0x300#10 = fieldOp w := BitVec.and_allOnes
  have hdata : fieldData w &&& fieldData 0x300#10 = fieldData 0x100#10 := BitVec.and_zero
  rw [word_eq_iff_fields, fieldOp_and, fieldData_and, hop]
  exact and_iff_left hdata

/-- Settles O3: a match of the full mask fixes both fields, UPDATE's fixes `op` alone, and a word that decodes to a command
matches that command's row. -/
theorem decodingFollowsTheOpcodeMap : Obligations.DecodingFollowsTheOpcodeMap := by
  unfold Obligations.DecodingFollowsTheOpcodeMap
  intro w
  have hinit : decode w = .instr .init ↔ w &&& 0x3FF#10 = 0x000#10 := by
    rw [and_fullMask, decode_eq_init_iff, word_eq_iff_fields]; rfl
  have hupdate (c : Byte) : decode w = .instr (.update c) ↔ (w &&& 0x300#10 = 0x100#10 ∧ w.setWidth 8 = c) := by
    rw [and_opMask_eq_iff, setWidth_eq_fieldData, decode_eq_update_iff]
  have hfinal : decode w = .instr .final ↔ w &&& 0x3FF#10 = 0x200#10 := by
    rw [and_fullMask, decode_eq_final_iff, word_eq_iff_fields]; rfl
  refine ⟨hinit, hupdate, hfinal, fun hi hu hf => ?_⟩
  cases hd : decode w with
  | reserved r => exact ⟨r, rfl⟩
  | instr i =>
    cases i with
    | init => exact absurd (hinit.1 hd) hi
    | update c => exact absurd ((hupdate c).1 hd).1 hu
    | final => exact absurd (hfinal.1 hd) hf

/-! ### The counts -/

theorem fieldOp_eq_iff_toNat (w : CmdWord) (k : BitVec 2) : fieldOp w = k ↔ w.toNat / 256 = k.toNat := by
  have hw := w.isLt
  rw [← BitVec.toNat_inj, fieldOp, BitVec.extractLsb'_toNat, Nat.shiftRight_eq_div_pow, Nat.mod_eq_of_lt (by omega)]

theorem fieldData_eq_iff_toNat (w : CmdWord) (c : Byte) : fieldData w = c ↔ w.toNat % 256 = c.toNat := by
  rw [← BitVec.toNat_inj, fieldData, BitVec.extractLsb'_toNat, Nat.shiftRight_zero]

/-- Counting words is counting their numbers. -/
theorem length_filter_words {p : CmdWord → Prop} [DecidablePred p] {S : Finset ℕ} {k : ℕ} (hcard : S.card = k)
    (hS : ∀ n ∈ S, n < 1024) (hp : ∀ w, p w ↔ w.toNat ∈ S) :
    (((List.range 1024).map (BitVec.ofNat 10)).filter fun w => p w).length = k := by
  have hfilter : (Finset.range 1024).filter (fun n => p (BitVec.ofNat 10 n)) = S := by
    ext n
    rw [Finset.mem_filter, Finset.mem_range, hp, BitVec.toNat_ofNat]
    constructor
    · rintro ⟨hn, hmem⟩
      rwa [Nat.mod_eq_of_lt hn] at hmem
    · intro hmem
      exact ⟨hS n hmem, by rwa [Nat.mod_eq_of_lt (hS n hmem)]⟩
  calc (((List.range 1024).map (BitVec.ofNat 10)).filter fun w => p w).length
    _ = Nat.count (fun n => p (BitVec.ofNat 10 n)) 1024 := by
      rw [← List.countP_eq_length_filter, List.countP_map, Nat.count, Function.comp_def]
    _ = k := by rw [Nat.count_eq_card_filter_range, hfilter, hcard]

theorem decode_eq_init_iff_toNat (w : CmdWord) : decode w = .instr .init ↔ w.toNat ∈ ({0} : Finset ℕ) := by
  rw [decode_eq_init_iff, fieldOp_eq_iff_toNat, fieldData_eq_iff_toNat, BitVec.toNat_ofNat, BitVec.toNat_ofNat,
    Finset.mem_singleton]
  omega

theorem decode_eq_update_iff_toNat (w : CmdWord) :
    decode w = .instr (.update (w.setWidth 8)) ↔ w.toNat ∈ Finset.Ico 256 512 := by
  rw [decode_eq_update_iff, fieldOp_eq_iff_toNat, and_iff_left (setWidth_eq_fieldData w).symm, BitVec.toNat_ofNat,
    Finset.mem_Ico]
  omega

theorem decode_eq_final_iff_toNat (w : CmdWord) : decode w = .instr .final ↔ w.toNat ∈ ({512} : Finset ℕ) := by
  rw [decode_eq_final_iff, fieldOp_eq_iff_toNat, fieldData_eq_iff_toNat, BitVec.toNat_ofNat, BitVec.toNat_ofNat,
    Finset.mem_singleton]
  omega

theorem decode_eq_reservedOp_iff_toNat (w : CmdWord) :
    decode w = .reserved .reservedOp ↔ w.toNat ∈ Finset.Ico 768 1024 := by
  have hw := w.isLt
  rw [decode_eq_reservedOp_iff, fieldOp_eq_iff_toNat, BitVec.toNat_ofNat, Finset.mem_Ico]
  omega

theorem decode_eq_nonzeroData_iff_toNat (w : CmdWord) :
    decode w = .reserved .nonzeroData ↔ w.toNat ∈ Finset.Ico 1 256 ∪ Finset.Ico 513 768 := by
  rw [decode_eq_nonzeroData_iff, ne_eq, fieldOp_eq_iff_toNat, fieldOp_eq_iff_toNat, fieldData_eq_iff_toNat,
    BitVec.toNat_ofNat, BitVec.toNat_ofNat, BitVec.toNat_ofNat, Finset.mem_union, Finset.mem_Ico, Finset.mem_Ico]
  omega

/-- Settles O4: the cases are read off the fields; each outcome is an interval of word numbers, NonzeroData two. -/
theorem decodingCoversAllWords : Obligations.DecodingCoversAllWords := by
  unfold Obligations.DecodingCoversAllWords
  have hdisjoint : Disjoint (Finset.Ico 1 256) (Finset.Ico 513 768) := by
    rw [Finset.disjoint_left]
    intro n hlow hhigh
    rw [Finset.mem_Ico] at hlow hhigh
    omega
  have hcard : (Finset.Ico 1 256 ∪ Finset.Ico 513 768).card = 510 := by
    rw [Finset.card_union_of_disjoint hdisjoint, Nat.card_Ico, Nat.card_Ico]
  have hmem : ∀ n ∈ Finset.Ico 1 256 ∪ Finset.Ico 513 768, n < 1024 := by
    simp only [Finset.mem_union, Finset.mem_Ico]; omega
  constructor
  · exact fun w => ⟨fun ho => (decode_eq_update_iff w _).2 ⟨ho, rfl⟩, fun ho hd => (decode_eq_init_iff w).2 ⟨ho, hd⟩,
      fun ho hd => (decode_eq_final_iff w).2 ⟨ho, hd⟩, (decode_eq_reservedOp_iff w).2,
      fun ho hd => (decode_eq_nonzeroData_iff w).2 ⟨ho, hd⟩⟩
  · exact ⟨length_filter_words (Finset.card_singleton 0) (by simp) decode_eq_init_iff_toNat,
      length_filter_words (Nat.card_Ico 256 512) (fun _ hn => (Finset.mem_Ico.1 hn).2.trans (by decide))
        decode_eq_update_iff_toNat,
      length_filter_words (Finset.card_singleton 512) (by simp) decode_eq_final_iff_toNat,
      length_filter_words (Nat.card_Ico 768 1024) (fun _ hn => (Finset.mem_Ico.1 hn).2) decode_eq_reservedOp_iff_toNat,
      length_filter_words hcard hmem decode_eq_nonzeroData_iff_toNat⟩

end Sys2Proof

namespace Sys2Proof.Machine

/-! ### The result port over a step -/

theorem step_of_accepts_instr {s : State} {w : CmdWord} {i : Instr} (h : s.Accepts w) (hd : decode w = .instr i) :
    step s = exec i s.consumeInput := by
  rw [step_of_accepts h, acceptWord_instr _ hd]

/-- Every command but FINAL ends a result. -/
theorem exec_ends_result {i : Instr} (hi : i ≠ .final) (s : State) :
    ∃ t, exec i s = .next t ∧ t.resValid = false ∧ t.portOutput = none := by
  cases i with
  | init => exact ⟨_, exec_init s, State.dropResult_resValid _, State.portOutput_dropResult _⟩
  | update c => exact ⟨_, exec_update c s, State.dropResult_resValid _, State.portOutput_dropResult _⟩
  | final => exact absurd rfl hi

theorem portOutput_applyReset (s : State) : s.applyReset.portOutput = none := State.portOutput_dropResult _

/-- Settles O17: one kind of edge at a time, FINAL, an edge that accepts nothing, another command, `rst`. -/
theorem resultHoldsUntilTheNextWord : Obligations.ResultHoldsUntilTheNextWord := by
  unfold Obligations.ResultHoldsUntilTheNextWord
  refine ⟨fun s w h hd => ?_, fun s href hrst hvalid hres => ?_, fun s w i h hd hi => ?_, fun s href hrst => ?_⟩
  · have href : s.consumeInput.refused = false := h.1
    refine ⟨_, (step_of_accepts_instr h hd).trans (exec_final _), State.showResult_resValid _ _, ?_, ?_⟩
    · rw [State.showResult_resData, fin_eq, State.consumeInput_crc]
    · rw [State.portOutput_showResult _ href, fin_eq, State.consumeInput_crc]
  · have hres' : s.consumeInput.resValid = true := hres
    rw [step_of_idle href hrst hvalid, State.holdResult_of_valid hres']
    rfl
  · rw [step_of_accepts_instr h hd]
    exact exec_ends_result hi _
  · exact ⟨_, step_of_rst href hrst, State.applyReset_resValid _, portOutput_applyReset _⟩

end Sys2Proof.Machine

namespace Sys2Proof.Machine

/-! ### Numbers -/

/-- The characters that are digits: decimal ones in either base, the letters of both cases in base 16 alone. -/
theorem digitValue_eq_some {base d : Nat} {c : Char} (h : digitValue base c = some d) :
    ('0' ≤ c ∧ c ≤ '9') ∨ (10 < base ∧ (('a' ≤ c ∧ c ≤ 'f') ∨ ('A' ≤ c ∧ c ≤ 'F'))) := by
  have hle (a b : Char) : a ≤ b ↔ a.toNat ≤ b.toNat := Iff.rfl
  simp only [hle, Char.reduceToNat]
  unfold digitValue at h
  have hlt := (Option.ite_none_right_eq_some.1 h).1
  split at hlt
  · exact .inl ‹_›
  · split at hlt
    · exact .inr ⟨by omega, .inl ‹_›⟩
    · split at hlt
      · exact .inr ⟨by omega, .inr ‹_›⟩
      · exact absurd hlt (Nat.lt_irrefl base)

theorem digitsValue_ten_chars {acc n : Nat} {cs : List Char} (h : digitsValue 10 acc cs = some n) :
    ∀ c ∈ cs, '0' ≤ c ∧ c ≤ '9' := by
  intro c hc
  obtain ⟨d, hd⟩ := digitsValue_digits h c hc
  exact (digitValue_eq_some hd).resolve_right fun hbase => absurd hbase.1 (by decide)

theorem digitsValue_sixteen_chars {acc n : Nat} {cs : List Char} (h : digitsValue 16 acc cs = some n) :
    ∀ c ∈ cs, ('0' ≤ c ∧ c ≤ '9') ∨ ('a' ≤ c ∧ c ≤ 'f') ∨ ('A' ≤ c ∧ c ≤ 'F') := by
  intro c hc
  obtain ⟨d, hd⟩ := digitsValue_digits h c hc
  exact (digitValue_eq_some hd).imp_right And.right

theorem digitsValue_replicate_zero {base : Nat} (hb : base = 10 ∨ base = 16) (k : Nat) :
    digitsValue base 0 (List.replicate k '0') = some 0 := by
  have hzero : digitValue base '0' = some 0 := digitValue_digitChar (d := 0) hb (by omega)
  induction k with
  | zero => rfl
  | succ k ih => rw [List.replicate_succ, digitsValue, hzero, Option.bind_some, Nat.zero_mul, ih]

theorem parseInteger_hex {cs : List Char} (hne : cs ≠ []) : parseInteger ('0' :: 'x' :: cs) = digitsValue 16 0 cs := by
  cases cs with
  | nil => exact absurd rfl hne
  | cons c cs => rfl

theorem parseInteger_decimal {cs : List Char} (hne : cs ≠ []) (hx : 'x' ∉ cs) :
    parseInteger cs = digitsValue 10 0 cs := by
  unfold parseInteger
  split
  · simp at hx
  · rfl
  · exact absurd rfl hne

/-- A text that is an integer is read as decimal digits, or as hexadecimal ones after `0x`. -/
theorem parseInteger_cases {t : List Char} {n : Nat} (h : parseInteger t = some n) :
    (t ≠ [] ∧ digitsValue 10 0 t = some n) ∨ ∃ ds, t = '0' :: 'x' :: ds ∧ ds ≠ [] ∧ digitsValue 16 0 ds = some n := by
  unfold parseInteger at h
  split at h
  · exact .inr ⟨_, rfl, List.cons_ne_nil _ _, h⟩
  · exact .inl ⟨List.cons_ne_nil _ _, h⟩
  · cases h

theorem parseInteger_toDigits_ten (n : Nat) : parseInteger (Nat.toDigits 10 n) = some n := by
  have hvalue := digitsValue_toDigits (.inl rfl) n
  have hx : 'x' ∉ Nat.toDigits 10 n := fun hmem => absurd (digitsValue_ten_chars hvalue _ hmem) (by decide)
  rw [parseInteger_decimal Nat.toDigits_ne_nil hx, hvalue]

theorem parseInteger_toDigits_sixteen (n k : Nat) :
    parseInteger ('0' :: 'x' :: (List.replicate k '0' ++ Nat.toDigits 16 n)) = some n := by
  rw [parseInteger_hex (List.append_ne_nil_of_right_ne_nil _ Nat.toDigits_ne_nil), digitsValue_append,
    digitsValue_replicate_zero (.inr rfl), Option.bind_some, digitsValue_toDigits (.inr rfl)]

theorem parseInteger_chars {t : List Char} {n : Nat} (h : parseInteger t = some n) :
    (t ≠ [] ∧ ∀ c ∈ t, '0' ≤ c ∧ c ≤ '9') ∨
    (∃ ds, t = '0' :: 'x' :: ds ∧ ds ≠ [] ∧
      ∀ c ∈ ds, ('0' ≤ c ∧ c ≤ '9') ∨ ('a' ≤ c ∧ c ≤ 'f') ∨ ('A' ≤ c ∧ c ≤ 'F')) := by
  obtain ⟨hne, hvalue⟩ | ⟨ds, rfl, hne, hvalue⟩ := parseInteger_cases h
  · exact .inl ⟨hne, digitsValue_ten_chars hvalue⟩
  · exact .inr ⟨ds, rfl, hne, digitsValue_sixteen_chars hvalue⟩

/-! ### Immediates and statements -/

theorem immediate_natCast (n : Nat) : immediate n = if n ≤ 255 then some (BitVec.ofNat 8 n) else none := by
  have hbyte : isByteOrdinal n = true ↔ n ≤ 255 := by rw [isByteOrdinal_iff]; omega
  simp only [immediate, hbyte, byteOfInt, BitVec.ofInt_natCast]

theorem parseImmediate_of_integer {t : List Char} {n : Nat} (h : parseInteger t = some n) :
    parseImmediate t = if n ≤ 255 then some (BitVec.ofNat 8 n) else none := by
  rw [parseImmediate, h, Option.bind_some, immediate_natCast]

theorem parseImmediate_of_not_integer {t : List Char} (h : parseInteger t = none) : parseImmediate t = none := by
  rw [parseImmediate, h, Option.bind_none]

theorem parseImmediate_eq_some_iff (t : List Char) (c : Byte) :
    parseImmediate t = some c ↔ ∃ n, parseInteger t = some n ∧ n ≤ 255 ∧ c = BitVec.ofNat 8 n := by
  cases h : parseInteger t with
  | none => simp [parseImmediate_of_not_integer h]
  | some n => simp [parseImmediate_of_integer h, eq_comm]

/-- Operand by operand, in order. -/
theorem parseImmediates_eq_some_iff (ts : List (List Char)) (cs : List Byte) :
    parseImmediates ts = some cs ↔ List.Forall₂ (fun t c => parseImmediate t = some c) ts cs := by
  induction ts generalizing cs with
  | nil => simp [parseImmediates, eq_comm]
  | cons t ts ih =>
    simp only [parseImmediates, Option.bind_eq_some_iff, Option.map_eq_some_iff, ih, List.forall₂_cons_left_iff,
      exists_and_left, eq_comm (a := cs)]

/-- The operand byte, zero-extended, is the low byte of the word (R50). -/
theorem encode_update_ofNat {n : Nat} (h : n ≤ 255) :
    encode (.update (BitVec.ofNat 8 n)) = 0x100#10 ||| BitVec.ofNat 10 n := by
  have hext : (BitVec.ofNat 8 n).setWidth 10 = BitVec.ofNat 10 n := by
    rw [BitVec.setWidth_ofNat_of_le_of_lt (by decide) (by omega)]
  rw [encode, hext]

theorem assembleStatement_update (t : List Char) :
    assembleStatement ['u', 'p', 'd', 'a', 't', 'e'] [t] = (parseImmediate t).map fun c => [encode (.update c)] := rfl

theorem assembleStatement_crc64 (ts : List (List Char)) :
    assembleStatement ['c', 'r', 'c', '6', '4'] ts = (parseImmediates ts).map crc64Words := rfl

/-! ### Lines -/

theorem isBlank_eq_false_of_mem {t : List Char} (hspace : ' ' ∉ t) (htab : '\t' ∉ t) (hreturn : '\r' ∉ t) :
    ∀ c ∈ t, isBlank c = false := by
  intro c hc
  rw [← Bool.not_eq_true, isBlank_iff]
  rintro (rfl | rfl | rfl)
  · exact hspace hc
  · exact htab hc
  · exact hreturn hc

/-- A blank after a word is no part of it. -/
theorem trim_append_blank {b : Char} (hb : isBlank b = true) {m : List Char} (hm : ∀ c ∈ m, isBlank c = false) :
    trim (m ++ [b]) = m := by
  cases m with
  | nil => simp [trim, hb]
  | cons c m =>
    have hhead : isBlank c = false := hm c (by simp)
    calc trim (c :: m ++ [b])
      _ = ((c :: m).reverse.dropWhile isBlank).reverse := by simp [trim, hhead, hb]
      _ = trim (c :: m) := by simp [trim, hhead]
      _ = c :: m := trim_of_no_blank hm

/-- A line of a mnemonic, a space and an operand text that neither begins nor ends with a blank is the mnemonic's statement with
the fields of that text. -/
theorem assembleLine_statement {m rest : List Char} (hne : m ≠ []) (hm : ∀ c ∈ m, isBlank c = false)
    (hcomment : ';' ∉ m ++ ' ' :: rest) (hfirst : ∀ c ∈ rest.head?, isBlank c = false)
    (hlast : ∀ c ∈ rest.getLast?, isBlank c = false) :
    assembleLine (m ++ ' ' :: rest) = assembleStatement m (if rest = [] then [] else (splitFields ',' rest).map trim) := by
  have hword : ∀ c ∈ m, (!isBlank c) = true := by simpa using hm
  cases rest with
  | nil =>
    have htake : m.takeWhile (fun c => !isBlank c) = m := List.takeWhile_eq_self_iff.2 hword
    have hdrop : m.dropWhile (fun c => !isBlank c) = [] := List.dropWhile_eq_nil_iff.2 hword
    have hempty : trim [] = [] := rfl
    simp [assembleLine, takeWhile_ne_of_not_mem hcomment, trim_append_blank (b := ' ') rfl hm, hne, htake, hdrop, hempty]
  | cons r rest =>
    have htext : trim (m ++ ' ' :: r :: rest) = m ++ ' ' :: r :: rest := by
      refine trim_of_ends (fun c hc => ?_) (fun c hc => hlast c (by simpa using hc))
      rw [List.head?_append_of_ne_nil _ hne] at hc
      exact hm c (List.mem_of_head? hc)
    have htake : (m ++ ' ' :: r :: rest).takeWhile (fun c => !isBlank c) = m := by
      rw [List.takeWhile_append_of_pos hword]; simp [isBlank]
    have hdrop : (m ++ ' ' :: r :: rest).dropWhile (fun c => !isBlank c) = ' ' :: r :: rest := by
      rw [List.dropWhile_append_of_pos hword]; simp [isBlank]
    have hrest : trim (' ' :: r :: rest) = r :: rest := by
      rw [trim_cons_blank rfl, trim_of_ends hfirst hlast]
    simp [assembleLine, takeWhile_ne_of_not_mem hcomment, htext, htake, hdrop, hrest]

theorem assembleLine_comment {line : List Char} (h : ';' ∉ line) (comment : List Char) :
    assembleLine (line ++ ';' :: comment) = assembleLine line := by
  have htake : (line ++ ';' :: comment).takeWhile (fun c => c != ';') = line.takeWhile (fun c => c != ';') := by
    rw [List.takeWhile_append_of_pos (List.takeWhile_eq_self_iff.1 (takeWhile_ne_of_not_mem h)),
      takeWhile_ne_of_not_mem h]
    simp
  rw [assembleLine, assembleLine, htake]

theorem assemble_line {line : List Char} (h : '\n' ∉ line) : assemble line = assembleLine line := by
  rw [assemble, splitFields_of_not_mem h]
  cases hl : assembleLine line <;> simp [assembleLines, hl]

theorem assemble_lines {line : List Char} (h : '\n' ∉ line) (text : List Char) :
    assemble (line ++ '\n' :: text) = (assembleLine line).bind fun ws => (assemble text).map fun more => ws ++ more := by
  rw [assemble, splitFields_append h]
  rfl

/-- One operand text, the empty one too: a line of `update` alone and `update` with an operand of no character are both errors. -/
theorem assembleLine_update {t : List Char} (hblank : ∀ c ∈ t, isBlank c = false) (hcomma : ',' ∉ t) (hcomment : ';' ∉ t) :
    assembleLine (['u', 'p', 'd', 'a', 't', 'e', ' '] ++ t) = assembleStatement ['u', 'p', 'd', 'a', 't', 'e'] [t] := by
  have hline := assembleLine_statement (m := ['u', 'p', 'd', 'a', 't', 'e']) (rest := t) (by decide) (by simp [isBlank])
    (by simpa using hcomment) (fun c hc => hblank c (List.mem_of_head? hc)) (fun c hc => hblank c (List.mem_of_getLast? hc))
  refine hline.trans ?_
  split
  · subst t; rfl
  · rw [splitFields_of_not_mem hcomma, List.map_singleton, trim_of_no_blank hblank]

/-- Settles O43: statements by the value of their operand text, numbers by their digits, lines by their parts. -/
theorem assemblyFollowsTheSyntax : Obligations.AssemblyFollowsTheSyntax := by
  unfold Obligations.AssemblyFollowsTheSyntax
  refine ⟨rfl, rfl, fun t n h hn => ?_, fun t n h hn => ?_, fun t h => ?_, parseInteger_toDigits_ten,
    parseInteger_toDigits_sixteen, fun _ _ => parseInteger_chars, by decide, by decide,
    fun t hspace htab hreturn => assembleLine_update (isBlank_eq_false_of_mem hspace htab hreturn),
    fun _ comment h => assembleLine_comment h comment, fun _ => assemble_line, fun _ text h => assemble_lines h text⟩
  · rw [assembleStatement_update, parseImmediate_of_integer h, if_pos hn, Option.map_some, encode_update_ofNat hn]
  · rw [assembleStatement_update, parseImmediate_of_integer h, if_neg (by omega), Option.map_none]
  · rw [assembleStatement_update, parseImmediate_of_not_integer h, Option.map_none]

/-! ### The pseudo-instruction -/

theorem splitFields_ne_nil (sep : Char) (cs : List Char) : splitFields sep cs ≠ [] := by
  cases cs with
  | nil => simp [splitFields]
  | cons c cs =>
    rw [splitFields]
    split
    · simp
    · split <;> simp

/-- A blank at the front of a text is trimmed with its first field. -/
theorem map_trim_splitFields_cons_blank {b sep : Char} (hb : isBlank b = true) (hsep : b ≠ sep) (cs : List Char) :
    (splitFields sep (b :: cs)).map trim = (splitFields sep cs).map trim := by
  cases h : splitFields sep cs with
  | nil => exact absurd h (splitFields_ne_nil sep cs)
  | cons f fs => simp [splitFields, h, hsep, trim_cons_blank hb]

/-- A text that can stand as one operand: not empty, without blank, comma or semicolon. -/
structure IsOperandText (t : List Char) : Prop where
  ne_nil : t ≠ []
  no_blank : ∀ c ∈ t, isBlank c = false
  no_comma : ',' ∉ t
  no_semicolon : ';' ∉ t

/-- The operand texts as a line writes them, parted by a comma and a space. -/
def operandList (ts : List (List Char)) : List Char := [',', ' '].intercalate ts

theorem operandList_singleton (t : List Char) : operandList [t] = t := List.intercalate_singleton

theorem operandList_cons_cons (t u : List Char) (us : List (List Char)) :
    operandList (t :: u :: us) = t ++ ',' :: ' ' :: operandList (u :: us) := by
  simp [operandList, List.intercalate_cons_cons]

/-- The operand list of at least one text: no comment begins in it, and it begins and ends with an operand's character. -/
theorem operandList_ends {t : List Char} {ts : List (List Char)} (h : ∀ u ∈ t :: ts, IsOperandText u) :
    operandList (t :: ts) ≠ [] ∧ ';' ∉ operandList (t :: ts) ∧
    (∀ c ∈ (operandList (t :: ts)).head?, isBlank c = false) ∧
    (∀ c ∈ (operandList (t :: ts)).getLast?, isBlank c = false) := by
  have ht : IsOperandText t := h t List.mem_cons_self
  induction ts generalizing t with
  | nil =>
    rw [operandList_singleton]
    exact ⟨ht.ne_nil, ht.no_semicolon, fun c hc => ht.no_blank c (List.mem_of_head? hc),
      fun c hc => ht.no_blank c (List.mem_of_getLast? hc)⟩
  | cons u us ih =>
    obtain ⟨hne, hsemicolon, -, hlast⟩ := ih (List.forall_mem_of_forall_mem_cons h) (h u (by simp))
    rw [operandList_cons_cons]
    refine ⟨by simp, by simp [ht.no_semicolon, hsemicolon], fun c hc => ?_, fun c hc => hlast c ?_⟩
    · rw [List.head?_append_of_ne_nil _ ht.ne_nil] at hc
      exact ht.no_blank c (List.mem_of_head? hc)
    · rwa [List.append_cons, List.append_cons, List.getLast?_append_of_ne_nil _ hne] at hc

/-- The fields of the operand list, without the blanks around them, are the operand texts. -/
theorem map_trim_splitFields_operandList {t : List Char} {ts : List (List Char)} (h : ∀ u ∈ t :: ts, IsOperandText u) :
    (splitFields ',' (operandList (t :: ts))).map trim = t :: ts := by
  have ht : IsOperandText t := h t List.mem_cons_self
  have htrim : trim t = t := trim_of_no_blank ht.no_blank
  induction ts generalizing t with
  | nil => rw [operandList_singleton, splitFields_of_not_mem ht.no_comma, List.map_singleton, htrim]
  | cons u us ih =>
    have hu : IsOperandText u := h u (by simp)
    rw [operandList_cons_cons, splitFields_append ht.no_comma, List.map_cons, htrim,
      map_trim_splitFields_cons_blank rfl (by decide),
      ih (List.forall_mem_of_forall_mem_cons h) hu (trim_of_no_blank hu.no_blank)]

/-- A line of `crc64` with its operand texts has them as its operands; with none it is `crc64` alone. -/
theorem assembleLine_crc64 {ts : List (List Char)} (h : ∀ t ∈ ts, IsOperandText t) :
    assembleLine (['c', 'r', 'c', '6', '4', ' '] ++ operandList ts) = assembleStatement ['c', 'r', 'c', '6', '4'] ts := by
  cases ts with
  | nil => decide
  | cons t ts =>
    obtain ⟨hne, hsemicolon, hfirst, hlast⟩ := operandList_ends h
    have hline := assembleLine_statement (m := ['c', 'r', 'c', '6', '4']) (by decide) (by simp [isBlank])
      (by simpa using hsemicolon) hfirst hlast
    rw [if_neg hne, map_trim_splitFields_operandList h] at hline
    exact hline

/-- Settles O44: operands one by one, and a line's operand list taken apart again by induction on its texts. -/
theorem pseudoInstructionExpands : Obligations.PseudoInstructionExpands := by
  unfold Obligations.PseudoInstructionExpands
  refine ⟨fun cs => rfl, parseImmediate_eq_some_iff, parseImmediates_eq_some_iff, fun ts cs h => ?_, fun ts h => ?_, rfl,
    by decide, fun ts h => assembleLine_crc64 fun t ht => ?_⟩
  · rw [assembleStatement_crc64, h, Option.map_some]
  · rw [assembleStatement_crc64, h, Option.map_none]
  · obtain ⟨hne, hspace, htab, hreturn, hcomma, hsemicolon⟩ := h t ht
    exact ⟨hne, isBlank_eq_false_of_mem hspace htab hreturn, hcomma, hsemicolon⟩

end Sys2Proof.Machine

/-! SUPPORT. The datapath units bit by bit and on the examples of spec/40_datapath.md (R61 to R67). -/

namespace Sys2Proof.Machine

/-! ### The index -/

theorem indexUnit_of_lowByte_eq {crc crc' : Word} (h : lowByte crc = lowByte crc') (c : Byte) :
    indexUnit crc c = indexUnit crc' c := by
  rw [indexUnit_eq, indexUnit_eq, h]

theorem indexUnit_lowByte (crc : Word) : indexUnit crc (lowByte crc) = 0x00#8 := by
  rw [indexUnit_eq, BitVec.xor_self]

theorem indexUnit_zero (c : Byte) : indexUnit 0#64 c = c := by
  have hzero : lowByte 0#64 = 0#8 := rfl
  rw [indexUnit_eq, hzero, BitVec.zero_xor]

/-- Settles O31: the register enters the index by its low byte alone. -/
theorem indexUsesOnlyTheLowByte : Obligations.IndexUsesOnlyTheLowByte := by
  unfold Obligations.IndexUsesOnlyTheLowByte
  refine ⟨fun crc c => ⟨rfl, indexUnit_eq crc c, indexUnit_lowByte crc, indexUnit_zero c⟩,
    fun _ _ c h => indexUnit_of_lowByte_eq h c, ?_⟩
  rw [indexUnit_eq]
  decide

/-! ### The shift -/

/-- Bit `i` of the shifted word is the bit eight places above it; past the top it is zero. -/
theorem getLsbD_shr8 (a : Word) (i : Nat) : (shr8 a).getLsbD i = a.getLsbD (i + 8) := by
  rw [shr8, BitVec.getLsbD_ushiftRight, Config.shiftDistance, Nat.add_comm]

/-- The low eight bits are discarded. -/
theorem shr8_eq_of_high_bits {a b : Word} (h : ∀ i, 8 ≤ i → a.getLsbD i = b.getLsbD i) : shr8 a = shr8 b := by
  refine BitVec.eq_of_getLsbD_eq fun i _ => ?_
  rw [getLsbD_shr8, getLsbD_shr8, h (i + 8) (Nat.le_add_left 8 i)]

/-- Settles O32: every clause on bits is read off the one bit equation of the shift. -/
theorem shiftIsLogicalByEight : Obligations.ShiftIsLogicalByEight := by
  unfold Obligations.ShiftIsLogicalByEight
  refine ⟨fun a => ⟨fun i _ => getLsbD_shr8 a i, fun i hi => ?_⟩, fun _ _ => shr8_eq_of_high_bits, rfl, rfl, rfl, rfl⟩
  rw [getLsbD_shr8, BitVec.getLsbD_of_ge _ _ (by omega)]

/-! ### XOR, combine and the output XOR -/

theorem getLsbD_xor64 (a b : Word) (i : Nat) : (xor64 a b).getLsbD i = (a.getLsbD i ^^ b.getLsbD i) :=
  BitVec.getLsbD_xor

theorem xor64_laws (a b c : Word) : xor64 a a = 0#64 ∧ xor64 a 0#64 = a ∧ xor64 a b = xor64 b a ∧
    xor64 (xor64 a b) c = xor64 a (xor64 b c) :=
  ⟨BitVec.xor_self, BitVec.xor_zero, BitVec.xor_comm a b, BitVec.xor_assoc a b c⟩

/-- The output XOR is not the inversion: they differ in bit 0 of every word. -/
theorem fin_ne_inversion (a : Word) : fin a ≠ a ^^^ 0xFFFFFFFFFFFFFFFF#64 := by
  intro h
  have hbit : a.getLsbD 0 = (a.getLsbD 0 ^^ true) := by
    calc a.getLsbD 0
      _ = (fin a).getLsbD 0 := by rw [fin_eq]
      _ = (a ^^^ 0xFFFFFFFFFFFFFFFF#64).getLsbD 0 := by rw [h]
      _ = (a.getLsbD 0 ^^ true) := BitVec.getLsbD_xor
  simp at hbit

/-- R66's example: the register selects entry 1, whose value the document gives. -/
theorem updByte_lutOne_zero : updByte Config.lut 0xB1AA069AF3404101#64 0x00#8 = 0xB11BAC9C69B30140#64 := by
  have hidx : lowByte 0xB1AA069AF3404101#64 ^^^ 0x00#8 = 0x01#8 := by decide
  rw [updByte_eq, hidx, lut_one]
  decide

/-- Settles O30, unit by unit. -/
theorem xorUnitsAreExact : Obligations.XorUnitsAreExact := by
  unfold Obligations.XorUnitsAreExact
  exact ⟨fun a b i _ => getLsbD_xor64 a b i, xor64_laws, by decide, fun a => ⟨rfl, mask64_eq a, mask64_eq (shr8 a)⟩,
    mask64_eq _, fun _ _ _ => rfl, updByte_lutOne_zero, fun a => ⟨rfl, fin_eq a, fin_ne_inversion a⟩, fin_eq _⟩

/-! ### The table -/

/-- Settles O33: the read is the table's function, and the two given entries are `lut_zero` and `lut_one`. -/
theorem lutReadGivesTheEntry : Obligations.LutReadGivesTheEntry := by
  unfold Obligations.LutReadGivesTheEntry
  exact ⟨fun _ _ => rfl, lut_zero, lut_one⟩

end Sys2Proof.Machine

/-! SUPPORT. The engine's commands (spec/41_engine_commands.md R69 to R74): the machine against the spec's own step, each command in
every state, what a run depends on, and where a run can stop. -/

namespace Sys2Proof.Machine

/-! ### The spec's step on a word -/

theorem decode_encode_init : decode (encode .init) = .instr .init := by decide

theorem decode_encode_final : decode (encode .final) = .instr .final := by decide

/-- The spec's step refuses exactly the reserved words, each by its class. -/
theorem engineStep_eq_refused_iff (lut : Lut) (crc : Word) (w : CmdWord) (r : ReservedReason) :
    engineStep lut crc w = .refused r ↔ decode w = .reserved r := by
  cases hd : decode w with
  | instr i => cases i <;> simp [engineStep, hd]
  | reserved q => simp [engineStep, hd]

theorem engineStep_init (lut : Lut) (crc : Word) : engineStep lut crc (encode .init) = .ok Config.initValue none := by
  rw [engineStep, decode_encode_init]

theorem engineStep_final (lut : Lut) (crc : Word) : engineStep lut crc (encode .final) = .ok crc (some (fin crc)) := by
  rw [engineStep, decode_encode_final]

/-- Where the spec's step has a next register and an output, the machine accepts the word with that register and that output. -/
theorem acceptWord_of_engineStep_ok {s : State} {w : CmdWord} {crc : Word} {out : Option Word} (href : s.refused = false)
    (h : engineStep Config.lut s.crc w = .ok crc out) :
    ∃ t, acceptWord w s = .next t ∧ t.crc = crc ∧ t.portOutput = out := by
  cases hd : decode w with
  | reserved r => simp [(engineStep_eq_refused_iff Config.lut s.crc w r).2 hd] at h
  | instr i =>
    rw [acceptWord_instr s hd]
    simp only [engineStep, hd] at h
    cases i with
    | init => cases h; exact ⟨_, exec_init s, rfl, State.portOutput_dropResult _⟩
    | update c => cases h; exact ⟨_, exec_update c s, rfl, State.portOutput_dropResult _⟩
    | final => cases h; exact ⟨_, exec_final s, rfl, State.portOutput_showResult _ href⟩

/-- Settles O14: a register and an output carry over from the spec's step, and a refusal is of the decoder's class. -/
theorem stepIsTheSpecsEngineStep : Obligations.StepIsTheSpecsEngineStep := by
  unfold Obligations.StepIsTheSpecsEngineStep
  intro s w h
  have href : s.consumeInput.refused = false := h.1
  rw [step_of_accepts h]
  cases he : engineStep Config.lut s.crc w with
  | ok crc out => exact acceptWord_of_engineStep_ok href he
  | refused r =>
    have hd := (engineStep_eq_refused_iff Config.lut s.crc w r).1 he
    cases r <;> simp [acceptWord, hd]

/-! ### What a run observes -/

/-- A run that holds a refused word observes nothing. -/
theorem observeFrom_of_refused (ws : List CmdWord) {s : State} (h : s.refused = true) : observeFrom ws s = none := by
  induction ws generalizing s with
  | nil => simp [observeFrom, h]
  | cons w ws ih =>
    have hload : (s.load [w]).refused = true := h
    simp [observeFrom, advance_of_marked hload, ih hload]

/-- From an unrefused state the machine observes what the spec's engine does from the register alone. -/
theorem observeFrom_eq_engineObserve (ws : List CmdWord) {s : State} (h : s.refused = false) :
    observeFrom ws s = engineObserve Config.lut ws s.crc := by
  induction ws generalizing s with
  | nil => simp [observeFrom, engineObserve, h]
  | cons w ws ih =>
    have hstep : step (s.load [w]) = acceptWord w s := step_load_cons w [] h
    cases he : engineStep Config.lut s.crc w with
    | ok crc out =>
      obtain ⟨t, ht, rfl, rfl⟩ := acceptWord_of_engineStep_ok h he
      have hnext : step (s.load [w]) = .next t := hstep.trans ht
      simp [observeFrom, engineObserve, he, advance_of_next hnext, ih (step_next_refused hnext)]
    | refused r =>
      obtain ⟨q, hq⟩ := acceptWord_reserved s ((engineStep_eq_refused_iff _ _ _ _).1 he)
      simp [observeFrom, engineObserve, he, advance_of_refused (hstep.trans hq),
        observeFrom_of_refused ws (State.markRefused_refused _)]

/-- The spec's engine starts its run over at `init`. -/
theorem engineObserve_init (lut : Lut) (ws : List CmdWord) (crc : Word) :
    engineObserve lut (encode .init :: ws) crc = engineObserve lut ws Config.initValue := by
  simp [engineObserve, engineStep_init]

/-- The last register of a run is that of the words after its first, from the register the first one leaves. -/
theorem engineObserve_cons_crc {lut : Lut} {w : CmdWord} {crc crc' : Word} {out : Option Word} (ws : List CmdWord)
    (h : engineStep lut crc w = .ok crc' out) :
    (engineObserve lut (w :: ws) crc).map Observation.crc = (engineObserve lut ws crc').map Observation.crc := by
  simp [engineObserve, h, Function.comp_def]

/-- A `final` put in anywhere leaves the register at the end of the run as it was. -/
theorem engineObserve_insert_final_crc (lut : Lut) (ws vs : List CmdWord) (crc : Word) :
    (engineObserve lut (ws ++ encode .final :: vs) crc).map Observation.crc =
      (engineObserve lut (ws ++ vs) crc).map Observation.crc := by
  induction ws generalizing crc with
  | nil => exact engineObserve_cons_crc vs (engineStep_final lut crc)
  | cons w ws ih =>
    cases he : engineStep lut crc w with
    | ok crc' out => rw [List.cons_append, List.cons_append, engineObserve_cons_crc _ he, engineObserve_cons_crc _ he, ih]
    | refused r => simp [engineObserve, he]

/-- Settles O25: on the spec's engine, which sees of a state its register alone. -/
theorem initForgetsAndFinalIsInvisible : Obligations.InitForgetsAndFinalIsInvisible := by
  unfold Obligations.InitForgetsAndFinalIsInvisible
  refine ⟨fun ws s s' h h' hcrc => ?_, fun ws s s' h h' => ?_, fun ws vs s h => ?_⟩
  · rw [observeFrom_eq_engineObserve ws h, observeFrom_eq_engineObserve ws h', hcrc]
  · rw [observeFrom_eq_engineObserve _ h, observeFrom_eq_engineObserve _ h', engineObserve_init, engineObserve_init]
  · rw [observeFrom_eq_engineObserve _ h, observeFrom_eq_engineObserve _ h, engineObserve_insert_final_crc]

/-! ### Where a run can stop -/

theorem step_of_accepts_legal {s : State} {w : CmdWord} (h : s.Accepts w) (hw : wordWellFormed w = true) :
    ∃ t, step s = .next t := by
  obtain ⟨i, hd⟩ := (wordWellFormed_iff w).1 hw
  rw [step_of_accepts_instr h hd]
  exact exec_completes i _

/-- All that a refused step can have been: one of a marked run, or one on a reserved word. -/
theorem step_refused_cases {s : State} {r : Refusal} (h : step s = .refused r) :
    s.refused = true ∨ ∃ w, s.Accepts w ∧ wordWellFormed w = false := by
  cases href : s.refused with
  | true => exact .inl rfl
  | false =>
    cases hrst : s.pins.rst with
    | true => simp [step_of_rst href hrst] at h
    | false =>
      cases hvalid : s.pins.cmdValid with
      | false => simp [step_of_idle href hrst hvalid] at h
      | true =>
        have haccepts : s.Accepts s.pins.cmdWord := ⟨href, hrst, hvalid, rfl⟩
        refine .inr ⟨_, haccepts, ?_⟩
        rw [← advance_refused_of_accepts haccepts, advance_of_refused h, State.markRefused_refused]

/-- A host call that returns InvalidInputError has issued no command. -/
theorem callCrc64_invalidInput {s t : State} {xs : List Int} {k : Nat} {x : Int}
    (h : callCrc64 xs s = .next (.invalidInput k x, t)) : t = s := by
  unfold callCrc64 at h
  split at h
  · cases h; rfl
  · split at h <;> cases h

/-- Settles O13: legal words complete, a refused step is taken apart by its edge, and the type of faults is empty. -/
theorem everyLegalWordCompletes : Obligations.EveryLegalWordCompletes := by
  unfold Obligations.EveryLegalWordCompletes
  exact ⟨fun _ _ => step_of_accepts_legal, fun _ f => (nomatch f), fun _ _ => step_refused_cases,
    fun _ _ _ _ _ => callCrc64_invalidInput⟩

/-! ### UPDATE -/

/-- A byte equal to the register's low byte selects entry 0, which is zero, so the step is the shift alone. -/
theorem updByte_lut_lowByte (r : Word) : updByte Config.lut r (lowByte r) = r >>> 8 := by
  rw [updByte_eq, BitVec.xor_self, lut_zero, BitVec.zero_xor]

/-- Settles O7: the meaning of UPDATE written out, and R71's corner cases, all but the last of them the shift alone. -/
theorem updateTakesOneTableStep : Obligations.UpdateTakesOneTableStep := by
  unfold Obligations.UpdateTakesOneTableStep
  refine ⟨fun _ => rfl, fun s c => ⟨_, exec_update c s⟩, updByte_lut_lowByte 0#64, updByte_lut_lowByte,
    updByte_lut_lowByte 0xFFFFFFFFFFFFFFFF#64, updByte_lut_lowByte 0x8000000000000000#64,
    fun _ _ c h => indexUnit_of_lowByte_eq h c, ?_⟩
  have hidx : lowByte 0#64 ^^^ 0x01#8 = 0x01#8 := by decide
  rw [updByte_eq, hidx, lut_one]
  decide

/-! ### INIT and FINAL -/

/-- The output XOR is with zero, so FINAL shows the register itself. -/
theorem exec_final_eq (s : State) : exec .final s = .next (s.showResult s.crc) := by
  rw [exec_final, fin_eq]

/-- INIT followed by FINAL returns zero, whatever the state before. -/
theorem exec_init_final (s : State) : ∃ t u, exec .init s = .next t ∧ exec .final t = .next u ∧ u.resValid = true ∧
    u.resData = 0x0000000000000000#64 :=
  ⟨_, _, exec_init s, exec_final_eq _, State.showResult_resValid _ _, State.showResult_resData _ _⟩

/-- Settles O6: INIT writes the hardwired zero and ends the result. -/
theorem initSetsTheRegisterToZero : Obligations.InitSetsTheRegisterToZero := by
  unfold Obligations.InitSetsTheRegisterToZero
  exact ⟨rfl, fun s => ⟨_, exec_init s⟩, ⟨_, exec_init _, rfl⟩, exec_init_final⟩

/-- Settles O8: FINAL shows the register and keeps it, so what follows starts from the same register. -/
theorem finalReturnsTheRegister : Obligations.FinalReturnsTheRegister := by
  unfold Obligations.FinalReturnsTheRegister
  refine ⟨rfl, exec_final_eq, fun s => ⟨_, _, exec_final_eq s, exec_final_eq _, rfl, rfl⟩,
    fun s c => ⟨_, _, exec_final_eq s, exec_update c _, rfl⟩, ⟨_, exec_final_eq _, rfl⟩, fun s => ?_⟩
  obtain ⟨t, u, ht, hu, -, hdata⟩ := exec_init_final s
  exact ⟨t, u, ht, hu, hdata⟩

end Sys2Proof.Machine

/-! SUPPORT. Update over a sequence and the host operation `crc64` (spec/42_stream_operation.md R75 to R85): the words run on the
machine against the functions, and laws of the functions over any table. -/

namespace Sys2Proof.Machine

/-! ### Update over a sequence -/

theorem updSeq_nil (lut : Lut) (r : Word) : updSeq lut r [] = r := rfl

theorem updSeq_cons (lut : Lut) (r : Word) (c : Byte) (cs : List Byte) :
    updSeq lut r (c :: cs) = updSeq lut (updByte lut r c) cs := rfl

theorem updSeq_append (lut : Lut) (r : Word) (s1 s2 : List Byte) :
    updSeq lut r (s1 ++ s2) = updSeq lut (updSeq lut r s1) s2 := by
  induction s1 generalizing r with
  | nil => rfl
  | cons c s1 ih => rw [List.cons_append, updSeq_cons, updSeq_cons, ih]

/-- From the zero register a byte selects its own entry, and nothing is shifted in. -/
theorem updByte_zero (lut : Lut) (c : Byte) : updByte lut 0#64 c = lut c := by
  rw [updByte, indexUnit_zero, combine, mask64_eq]
  exact BitVec.xor_zero

theorem updSeq_zero_pair (lut : Lut) (c1 c2 : Byte) :
    updSeq lut 0#64 [c1, c2] = lut (c2 ^^^ lowByte (lut c1)) ^^^ lut c1 >>> 8 := by
  rw [updSeq_cons, updByte_zero, updSeq_cons, updSeq_nil, updByte_eq, BitVec.xor_comm c2]

/-- The two-byte vector reads entry 1 twice (R75, R84). -/
theorem updSeq_one_zero {lut : Lut} (h : Admissible lut) :
    updSeq lut 0#64 [0x01#8, 0x00#8] = 0xB11BAC9C69B30140#64 := by
  have hidx : 0x00#8 ^^^ lowByte 0xB1AA069AF3404101#64 = 0x01#8 := by decide
  rw [updSeq_zero_pair, h.2, hidx, h.2]
  decide

/-! ### The words of a sequence on the machine -/

theorem decode_encode_update (c : Byte) : decode (encode (.update c)) = .instr (.update c) :=
  (decode_eq_update_iff _ c).2 ⟨fieldOp_encode_update c, fieldData_encode_update c⟩

/-- The words after the update words of a sequence run from a state that holds the fold over it. -/
theorem runWords_updateWords_append (cs : List Byte) (ws : List CmdWord) {s : State} (h : s.refused = false) :
    ∃ t, runWords (updateWords cs ++ ws) s = runWords ws t ∧ t.crc = updSeq Config.lut s.crc cs ∧
      t.refused = false ∧ t.input = s.input := by
  induction cs generalizing s with
  | nil => exact ⟨s, rfl, rfl, h, rfl⟩
  | cons c cs ih =>
    have hcons := runWords_cons (updateWords cs ++ ws) h (decode_encode_update c) (exec_update c s)
    obtain ⟨t, hrun, hcrc, href, hinput⟩ := ih (s := (s.writeCrc (updByte Config.lut s.crc c)).dropResult) h
    exact ⟨t, hcons.trans hrun, hcrc, href, hinput⟩

theorem runWords_updateWords (cs : List Byte) {s : State} (h : s.refused = false) :
    ∃ t, runWords (updateWords cs) s = .next t ∧ t.crc = updSeq Config.lut s.crc cs ∧
      t.refused = false ∧ t.input = s.input := by
  have hrun := runWords_updateWords_append cs [] h
  rwa [List.append_nil] at hrun

/-- Settles O34, by induction on the sequence: each word leaves the register the fold goes on from. -/
theorem updateWordsComputeTheFold : Obligations.UpdateWordsComputeTheFold := by
  unfold Obligations.UpdateWordsComputeTheFold
  exact ⟨fun lut r c cs => ⟨updSeq_nil lut r, updSeq_cons lut r c cs⟩, fun _ cs h => runWords_updateWords cs h,
    updSeq_one_zero ⟨lut_zero, lut_one⟩⟩

/-- Settles O38: the fold over an append, on the function and on the words of the two parts. -/
theorem streamingInPieces : Obligations.StreamingInPieces := by
  unfold Obligations.StreamingInPieces
  refine ⟨updSeq_append, fun s s1 s2 h => ?_⟩
  obtain ⟨t, ht, htcrc, htref, -⟩ := runWords_updateWords s1 h
  obtain ⟨u, hu, hucrc, -, -⟩ := runWords_updateWords s2 htref
  obtain ⟨v, hv, hvcrc, -, -⟩ := runWords_updateWords (s1 ++ s2) h
  refine ⟨t, u, v, ht, hu, hv, ?_, hvcrc⟩
  rw [hucrc, htcrc, hvcrc, updSeq_append]

/-- The command form of `crc64` (R56): INIT forgets the register, the fold starts from zero, and FINAL shows it. -/
theorem runWords_crc64Words (cs : List Byte) {s : State} (h : s.refused = false) :
    ∃ t, runWords (crc64Words cs) s = .next t ∧ t.crc = updSeq Config.lut 0#64 cs ∧ t.resValid = true ∧
      t.resData = updSeq Config.lut 0#64 cs ∧ t.refused = false ∧ t.input = s.input := by
  obtain ⟨t, hrun, hcrc, href, hinput⟩ :=
    runWords_updateWords_append cs [encode .final] (s := (s.writeCrc Config.initValue).dropResult) h
  have hinit := runWords_cons (updateWords cs ++ [encode .final]) h decode_encode_init (exec_init s)
  have hfinal := runWords_cons [] href decode_encode_final (exec_final_eq t)
  exact ⟨t.showResult t.crc, hinit.trans (hrun.trans hfinal), hcrc, rfl, hcrc, href, hinput⟩

/-! ### The input check -/

/-- The check reports the first element that is no byte ordinal (R78). -/
theorem firstOffender_eq_some {xs : List Int} {k : Nat} {x : Int} (b : Nat) (hx : xs[k]? = some x)
    (hbad : ¬ (0 ≤ x ∧ x ≤ 255)) (hfirst : ∀ (j : Nat) (y : Int), j < k → xs[j]? = some y → 0 ≤ y ∧ y ≤ 255) :
    firstOffender b xs = some (b + k, x) := by
  induction xs generalizing b k with
  | nil => simp at hx
  | cons z zs ih =>
    cases k with
    | zero =>
      obtain rfl : z = x := by simpa using hx
      rw [firstOffender, if_neg (mt (isByteOrdinal_iff z).1 hbad), Nat.add_zero]
    | succ k =>
      have hz : isByteOrdinal z = true := (isByteOrdinal_iff z).2 (hfirst 0 z (Nat.succ_pos k) rfl)
      rw [firstOffender, if_pos hz, ih (b + 1) hx fun j y hj hy => hfirst (j + 1) y (Nat.succ_lt_succ hj) hy,
        Nat.add_right_comm, Nat.add_assoc]

theorem crc64_of_offender {xs : List Int} {k : Nat} {x : Int} (lut : Lut) (h : firstOffender 0 xs = some (k, x)) :
    crc64 lut xs = .invalidInput k x := by
  rw [crc64, h]

theorem callCrc64_of_offender {xs : List Int} {k : Nat} {x : Int} (s : State) (h : firstOffender 0 xs = some (k, x)) :
    callCrc64 xs s = .next (.invalidInput k x, s) := by
  rw [callCrc64, h]

theorem crc64_of_no_offender {xs : List Int} (lut : Lut) (h : firstOffender 0 xs = none) :
    crc64 lut xs = .ok (updSeq lut 0#64 (xs.map byteOfInt)) := by
  rw [crc64, h, finalize, fin_eq]
  rfl

/-- On a byte sequence `crc64` is the fold from zero. -/
theorem crc64_ordinals (lut : Lut) (cs : List Byte) : crc64 lut (ordinals cs) = .ok (updSeq lut 0#64 cs) := by
  rw [crc64_of_no_offender lut (firstOffender_ordinals 0 cs), map_byteOfInt_ordinals]

/-- A call whose elements pass the check returns the fold and leaves it in the register and on the port. -/
theorem callCrc64_of_no_offender {xs : List Int} {s : State} (hxs : firstOffender 0 xs = none) (h : s.refused = false) :
    ∃ t, callCrc64 xs s = .next (.ok (updSeq Config.lut 0#64 (xs.map byteOfInt)), t) ∧
      t.crc = updSeq Config.lut 0#64 (xs.map byteOfInt) ∧
      t.portOutput = some (updSeq Config.lut 0#64 (xs.map byteOfInt)) ∧ t.refused = false ∧ t.input = s.input := by
  obtain ⟨t, hrun, hcrc, hvalid, hdata, href, hinput⟩ := runWords_crc64Words (xs.map byteOfInt) h
  refine ⟨t, ?_, hcrc, ?_, href, hinput⟩
  · simp only [callCrc64, hxs, hrun, hdata]
  · simp [State.portOutput, href, hvalid, hdata]

/-- The host call returns what the function returns, an error too. -/
theorem callCrc64_eq_crc64 (xs : List Int) {s : State} (h : s.refused = false) :
    ∃ t, callCrc64 xs s = .next (crc64 Config.lut xs, t) ∧ t.refused = false ∧ t.input = s.input := by
  cases hxs : firstOffender 0 xs with
  | some offender =>
    rw [crc64_of_offender _ hxs]
    exact ⟨s, callCrc64_of_offender s hxs, h, rfl⟩
  | none =>
    rw [crc64_of_no_offender _ hxs]
    obtain ⟨t, hcall, -, -, href, hinput⟩ := callCrc64_of_no_offender hxs h
    exact ⟨t, hcall, href, hinput⟩

/-- Settles O35: the check answers the same in both, and the command form computes the fold. -/
theorem hostCallReturnsCrc64 : Obligations.HostCallReturnsCrc64 := by
  unfold Obligations.HostCallReturnsCrc64
  refine ⟨fun _ xs h => callCrc64_eq_crc64 xs h, fun s xs h hxs => ?_⟩
  obtain ⟨t, hcall, hcrc, hport, -, -⟩ := callCrc64_of_no_offender (firstOffender_eq_none_iff.2 hxs) h
  exact ⟨t, _, hcall, BitVec.xor_zero.symm, hcrc, hport⟩

/-- The two codes of R89 tell the two kinds of result apart. -/
theorem callResult_code_iff (r : CallResult) :
    (r.code = 0 ↔ ∃ v, r = .ok v) ∧ (r.code = 1 ↔ ∃ k x, r = .invalidInput k x) ∧ (r.code = 0 ∨ r.code = 1) := by
  cases r <;> simp [CallResult.code]

/-- Settles O36: the check names the first offender, and both the call and the function return what it names. -/
theorem invalidInputReportsTheLowestIndex : Obligations.InvalidInputReportsTheLowestIndex := by
  unfold Obligations.InvalidInputReportsTheLowestIndex
  refine ⟨fun s xs k x hx hbad hfirst => ?_, fun xs hxs => ?_, callResult_code_iff⟩
  · have hoffender : firstOffender 0 xs = some (k, x) := by
      rw [firstOffender_eq_some 0 hx hbad hfirst, Nat.zero_add]
    exact ⟨callCrc64_of_offender s hoffender, crc64_of_offender _ hoffender⟩
  · exact ⟨_, crc64_of_no_offender _ (firstOffender_eq_none_iff.2 hxs)⟩

/-! ### Short inputs -/

theorem crc64_nil (lut : Lut) : crc64 lut [] = .ok 0#64 := crc64_ordinals lut []

/-- Settles O37: the fold over no byte is the zero it starts from. -/
theorem emptySequenceYieldsZero : Obligations.EmptySequenceYieldsZero := by
  unfold Obligations.EmptySequenceYieldsZero
  refine ⟨crc64_nil, fun s h => ?_⟩
  obtain ⟨t, hcall, -, -⟩ := callCrc64_eq_crc64 [] h
  exact ⟨t, by rw [hcall, crc64_nil]⟩

theorem crc64_singleton (lut : Lut) (c : Byte) : crc64 lut (ordinals [c]) = .ok (lut c) := by
  rw [crc64_ordinals, updSeq_cons, updByte_zero, updSeq_nil]

/-- Settles O40: the first byte selects its entry, and the second is combined with that entry's low byte. -/
theorem oneAndTwoByteResults : Obligations.OneAndTwoByteResults := by
  unfold Obligations.OneAndTwoByteResults
  refine ⟨crc64_singleton, fun lut c1 c2 => ?_, fun lut h => ?_⟩
  · rw [crc64_ordinals, updSeq_zero_pair]
    rfl
  · exact (crc64_ordinals lut [0x01#8, 0x00#8]).trans (congrArg CallResult.ok (updSeq_one_zero h))

/-! ### Entry 0 is zero -/

/-- From the zero register, zero bytes stay at entry 0. -/
theorem updSeq_zero_replicate {lut : Lut} (h : lut 0x00#8 = 0#64) (n : Nat) :
    updSeq lut 0#64 (List.replicate n 0x00#8) = 0#64 := by
  induction n with
  | zero => rfl
  | succ n ih => rw [List.replicate_succ, updSeq_cons, updByte_zero, h, ih]

/-- Settles O39: the zero bytes leave the register where the fold over the rest starts. -/
theorem leadingZeroBytesAreInvisible : Obligations.LeadingZeroBytesAreInvisible := by
  unfold Obligations.LeadingZeroBytesAreInvisible
  refine fun lut ⟨hzero, _⟩ => ⟨fun n cs => ?_, ?_, crc64_nil lut⟩
  · rw [crc64_ordinals, crc64_ordinals, updSeq_append, updSeq_zero_replicate hzero]
  · exact (crc64_singleton lut 0x00#8).trans (congrArg CallResult.ok hzero)

/-- A byte equal to the register's low byte selects entry 0, so the step is the shift alone. -/
theorem updByte_lowByte {lut : Lut} (h : lut 0x00#8 = 0#64) (r : Word) : updByte lut r (lowByte r) = r >>> 8 := by
  rw [updByte_eq, BitVec.xor_self, h, BitVec.zero_xor]

/-- The next `n` bytes that a register meets as its own low byte, from the lowest up. -/
def ownLowBytes : Nat → Word → List Byte
  | 0, _ => []
  | n + 1, r => lowByte r :: ownLowBytes n (r >>> 8)

theorem length_ownLowBytes (n : Nat) (r : Word) : (ownLowBytes n r).length = n := by
  induction n generalizing r with
  | zero => rfl
  | succ n ih => rw [ownLowBytes, List.length_cons, ih]

/-- Feeding `n` own low bytes shifts the register out by as many bytes. -/
theorem updSeq_ownLowBytes {lut : Lut} (h : lut 0x00#8 = 0#64) (n : Nat) (r : Word) :
    updSeq lut r (ownLowBytes n r) = r >>> (8 * n) := by
  induction n generalizing r with
  | zero => exact (BitVec.ushiftRight_zero r).symm
  | succ n ih => rw [ownLowBytes, updSeq_cons, updByte_lowByte h, ih, ← BitVec.shiftRight_add, Nat.mul_succ, Nat.add_comm]

/-- Feeding the register its own low byte again and again is the fold over `ownLowBytes`. -/
theorem iterate_updByte_lowByte {lut : Lut} (h : lut 0x00#8 = 0#64) (n : Nat) (r : Word) :
    (fun x : Word => updByte lut x (lowByte x))^[n] r = updSeq lut r (ownLowBytes n r) := by
  induction n generalizing r with
  | zero => rfl
  | succ n ih => rw [Function.iterate_succ_apply, ih, updByte_lowByte h, ownLowBytes, updSeq_cons, updByte_lowByte h]

theorem updSeq_ownLowBytes_eight {lut : Lut} (h : lut 0x00#8 = 0#64) (r : Word) :
    updSeq lut r (ownLowBytes 8 r) = 0#64 := by
  rw [updSeq_ownLowBytes h, BitVec.ushiftRight_eq_zero (by decide)]

/-- Settles O41: own low bytes shift by eight each, so byte 1 and then the eight bytes of its own entry come to zero, as nine zero
bytes do. -/
theorem ownLowBytesShiftTheRegisterOut : Obligations.OwnLowBytesShiftTheRegisterOut := by
  unfold Obligations.OwnLowBytesShiftTheRegisterOut
  refine fun lut ⟨hzero, _⟩ => ⟨fun r => ⟨updByte_lowByte hzero r, ?_⟩, List.replicate 9 0x00#8,
    0x01#8 :: ownLowBytes 8 (lut 0x01#8), ?_, List.length_replicate, ?_, ?_⟩
  · exact (iterate_updByte_lowByte hzero 8 r).trans (updSeq_ownLowBytes_eight hzero r)
  · intro heq
    exact absurd (List.head_eq_of_cons_eq heq) (by decide)
  · rw [List.length_cons, length_ownLowBytes]
  · rw [crc64_ordinals, crc64_ordinals, updSeq_zero_replicate hzero, updSeq_cons, updByte_zero,
      updSeq_ownLowBytes_eight hzero]

end Sys2Proof.Machine

/-! SUPPORT. Reset by the pin and the runs from reset (spec/70_reset_and_hazards.md R102, R114). -/

namespace Sys2Proof.Machine

/-! ### Runs from reset -/

/-- The spec's engine observes nothing exactly where some word is reserved, whatever the register the run starts from. -/
theorem engineObserve_eq_none_iff (lut : Lut) (ws : List CmdWord) (crc : Word) :
    engineObserve lut ws crc = none ↔ ∃ w ∈ ws, wordWellFormed w = false := by
  induction ws generalizing crc with
  | nil => simp [engineObserve]
  | cons w ws ih =>
    rw [List.exists_mem_cons_iff]
    cases he : engineStep lut crc w with
    | ok crc' out =>
      have hlegal : ¬ wordWellFormed w = false := by
        rw [wordWellFormed_eq_false_iff]
        rintro ⟨r, hd⟩
        simp [(engineStep_eq_refused_iff lut crc w r).2 hd] at he
      rw [or_iff_right hlegal, ← ih crc']
      simp [engineObserve, he]
    | refused r =>
      have hreserved : wordWellFormed w = false :=
        (wordWellFormed_eq_false_iff w).2 ⟨r, (engineStep_eq_refused_iff lut crc w r).1 he⟩
      simp [engineObserve, he, hreserved]

/-- Settles O24: the machine observes what the spec's engine does, and of that engine the words alone decide whether it observes
anything. -/
theorem runObservesTheSpecsEngine : Obligations.RunObservesTheSpecsEngine := by
  unfold Obligations.RunObservesTheSpecsEngine
  intro ws
  have hengine : observe ws = engineObserve Config.lut ws 0x0000000000000000#64 :=
    observeFrom_eq_engineObserve ws (s := State.reset) rfl
  exact ⟨hengine, by rw [hengine, engineObserve_eq_none_iff]⟩

/-! ### Reset by the pin -/

/-- Settles O16: the edge is `applyReset` behind the pins it takes off, and the free value is the next draw of the stream. -/
theorem assertingRstResets : Obligations.AssertingRstResets := by
  unfold Obligations.AssertingRstResets
  exact fun s href hrst => ⟨Config.freeResData s.freeStream s.freeNext, step_of_rst href hrst⟩

end Sys2Proof.Machine

/-! SUPPORT. The round trip of the encoding (spec/30_encoding.md sections 4 and 7), and what a step keeps: the result port (R52),
the host's duties (R59, R112), the order of the words (R39) and independence from the register. -/

namespace Sys2Proof.Machine

/-! ### The round trip -/

theorem decode_encode (i : Instr) : decode (encode i) = .instr i := by
  cases i with
  | init => exact decode_encode_init
  | update c => exact decode_encode_update c
  | final => exact decode_encode_final

theorem word_eq_of_fields {v w : CmdWord} {o : BitVec 2} {d : Byte} (hv : fieldOp v = o ∧ fieldData v = d)
    (hw : fieldOp w = o ∧ fieldData w = d) : v = w :=
  fields_determine_word (hv.1.trans hw.1.symm) (hv.2.trans hw.2.symm)

/-- A command fixes both fields of its word. -/
theorem word_eq_of_decode_eq {v w : CmdWord} {i : Instr} (hv : decode v = .instr i) (hw : decode w = .instr i) : v = w := by
  cases i with
  | init => exact word_eq_of_fields ((decode_eq_init_iff v).1 hv) ((decode_eq_init_iff w).1 hw)
  | update c => exact word_eq_of_fields ((decode_eq_update_iff v c).1 hv) ((decode_eq_update_iff w c).1 hw)
  | final => exact word_eq_of_fields ((decode_eq_final_iff v).1 hv) ((decode_eq_final_iff w).1 hw)

theorem encode_of_decode {w : CmdWord} {i : Instr} (h : decode w = .instr i) : encode i = w :=
  word_eq_of_decode_eq (decode_encode i) h

/-- Settles O1: a word that decodes to a command is legal, and a command's own word decodes to it. -/
theorem encodedCommandDecodesToItself : Obligations.EncodedCommandDecodesToItself := by
  unfold Obligations.EncodedCommandDecodesToItself
  exact fun i => ⟨(wordWellFormed_iff _).2 ⟨i, decode_encode i⟩, decode_encode i⟩

/-- Settles O2: the word and the command's encoding decode to the same command. -/
theorem decodedWordIsItsEncoding : Obligations.DecodedWordIsItsEncoding := by
  unfold Obligations.DecodedWordIsItsEncoding
  exact fun _ _ => encode_of_decode

/-- Settles O5, by evaluating the decoder on the ten words. -/
theorem specVectorWordsDecode : Obligations.SpecVectorWordsDecode := by
  unfold Obligations.SpecVectorWordsDecode
  decide

/-! ### The result on the port -/

theorem State.resultIsCurrent_of_invalid {s : State} (h : s.resValid = false) : s.ResultIsCurrent := by
  intro hvalid
  simp [h] at hvalid

/-- INIT and UPDATE end a result, and FINAL shows the one of the register. -/
theorem exec_resultIsCurrent {i : Instr} {s t : State} (h : exec i s = .next t) : t.ResultIsCurrent := by
  cases i with
  | init => cases h; exact State.resultIsCurrent_of_invalid (State.dropResult_resValid _)
  | update c => cases h; exact State.resultIsCurrent_of_invalid (State.dropResult_resValid _)
  | final => cases h; exact fun _ => rfl

theorem State.holdResult_resultIsCurrent {s : State} (h : s.ResultIsCurrent) : s.holdResult.ResultIsCurrent := by
  intro hvalid
  rw [State.holdResult_resValid] at hvalid
  rw [State.holdResult_of_valid hvalid]
  exact h hvalid

/-- Settles O19: no result is on the port after reset. -/
theorem resetResultIsCurrent : Obligations.ResetResultIsCurrent := by
  unfold Obligations.ResetResultIsCurrent
  exact fun _ => State.resultIsCurrent_of_invalid rfl

/-- Settles O20: `rst` ends a result, a command ends it or shows its own, and an edge that accepts nothing holds it. -/
theorem stepKeepsResultCurrent : Obligations.StepKeepsResultCurrent := by
  unfold Obligations.StepKeepsResultCurrent
  intro s t hs h
  obtain ⟨-, ⟨-, rfl⟩ | ⟨-, -, i, -, hexec⟩ | ⟨-, -, rfl⟩⟩ := step_cases h
  · exact State.resultIsCurrent_of_invalid (State.applyReset_resValid _)
  · exact exec_resultIsCurrent hexec
  · exact State.holdResult_resultIsCurrent (s := s.consumeInput) hs

/-! ### The host's duties -/

/-- Every step takes the pins of its edge off the host's input and leaves the rest. -/
theorem step_next_input {s t : State} (h : step s = .next t) : t.input = s.input.tail := by
  obtain ⟨-, ⟨-, rfl⟩ | ⟨-, -, i, -, hexec⟩ | ⟨-, -, rfl⟩⟩ := step_cases h
  · rfl
  · obtain ⟨-, hinput, -⟩ := exec_keeps hexec
    exact hinput
  · exact State.holdResult_input _

/-- A dutiful host's next pins obey its duties, the idle pins after its end too, and so does what it drives after them. -/
theorem State.hostObeys_next {s : State} (h : s.hostObeys = true) :
    s.pins.obeysHostDuties = true ∧ s.input.tail.all Pins.obeysHostDuties = true := by
  unfold State.hostObeys at h
  unfold State.pins
  cases hin : s.input with
  | nil => exact ⟨rfl, rfl⟩
  | cons p ps =>
    rw [hin, List.all_cons, Bool.and_eq_true] at h
    exact h

/-- A dutiful host's word is legal. -/
theorem wordWellFormed_of_accepts {s : State} {w : CmdWord} (hduty : s.pins.obeysHostDuties = true) (h : s.Accepts w) :
    wordWellFormed w = true := by
  obtain ⟨-, hrst, hvalid, rfl⟩ := h
  simpa [Pins.obeysHostDuties, hrst, hvalid] using hduty

/-- An unrefused engine stops on a reserved word alone, and a dutiful host presents none. -/
theorem step_completes_of_duties {s : State} (href : s.refused = false) (hduty : s.pins.obeysHostDuties = true) :
    ∃ t, step s = .next t := by
  cases h : step s with
  | next t => exact ⟨t, rfl⟩
  | fault f => exact nomatch f
  | refused r =>
    obtain hmark | ⟨w, haccepts, hreserved⟩ := step_refused_cases h
    · simp [href] at hmark
    · simp [wordWellFormed_of_accepts hduty haccepts] at hreserved

theorem step_keeps_host_dutiful {s : State} (href : s.refused = false) (hobeys : s.hostObeys = true) :
    ∃ t, step s = .next t ∧ t.refused = false ∧ t.hostObeys = true := by
  obtain ⟨hduty, htail⟩ := State.hostObeys_next hobeys
  obtain ⟨t, ht⟩ := step_completes_of_duties href hduty
  refine ⟨t, ht, step_next_refused ht, ?_⟩
  rw [State.hostObeys, step_next_input ht, htail]

/-- Settles O45: the step completes on dutiful pins, and takes them off the host's input. -/
theorem stepKeepsTheHostDutiful : Obligations.StepKeepsTheHostDutiful := by
  unfold Obligations.StepKeepsTheHostDutiful
  exact fun _ => step_keeps_host_dutiful

theorem run_completes_of_duties (k : Nat) {s : State} (href : s.refused = false) (hobeys : s.hostObeys = true) :
    ∃ t, Sys2Proof.core.run k s = .next t := by
  induction k generalizing s with
  | zero => exact ⟨s, core_run_zero s⟩
  | succ k ih =>
    obtain ⟨t, ht, htref, htobeys⟩ := step_keeps_host_dutiful href hobeys
    rw [core_run_succ_of_next k ht]
    exact ih htref htobeys

/-- Settles O27, by induction on the number of steps. -/
theorem dutifulHostNeverStops : Obligations.DutifulHostNeverStops := by
  unfold Obligations.DutifulHostNeverStops
  exact fun _ href hobeys k => run_completes_of_duties k href hobeys

/-! ### The frame of the commands -/

/-- INIT and UPDATE draw one free value, and FINAL draws none. -/
theorem exec_freeNext {i : Instr} {s t : State} (h : exec i s = .next t) :
    t.freeNext = if i = .final then s.freeNext else s.freeNext + 1 := by
  cases i with
  | init => cases h; rfl
  | update c => cases h; rfl
  | final => cases h; rfl

/-- Settles O9: what no command writes, then FINAL against the two commands that end a result. -/
theorem commandsFrame : Obligations.CommandsFrame := by
  unfold Obligations.CommandsFrame
  intro i s t h
  obtain ⟨href, hinput, hstream⟩ := exec_keeps h
  have hdraws := exec_freeNext h
  refine ⟨href, hinput, hstream, ?_⟩
  by_cases hi : i = .final
  · subst hi
    cases h
    simp
  · obtain ⟨u, hu, hvalid, hport⟩ := exec_ends_result hi s
    cases h.symm.trans hu
    rw [if_neg hi] at hdraws
    simp [hi, hvalid, hport, hdraws]

/-! ### Steps by their edge -/

/-- Settles O10: the command runs behind the pins of its edge. -/
theorem stepRunsTheDecodedCommand : Obligations.StepRunsTheDecodedCommand := by
  unfold Obligations.StepRunsTheDecodedCommand
  exact fun _ _ _ => step_of_accepts_instr

/-- A table word that reads as a command is a number of ten bits, and those bits decode to it. -/
theorem decode_of_decodeTableWord {nbits w : Nat} {i : Instr} (h : decodeTableWord nbits w = some i) :
    decode (BitVec.ofNat 10 (w % 2 ^ nbits)) = .instr i := by
  unfold decodeTableWord at h
  cases hcw : wordOfBits nbits w with
  | none => simp [hcw] at h
  | some cw =>
    obtain ⟨-, hbits⟩ := Option.ite_none_right_eq_some.1 hcw
    cases hbits
    cases hd : decode (BitVec.ofNat 10 (w % 2 ^ nbits)) with
    | instr j => simpa [hcw, hd] using h
    | reserved r => simp [hcw, hd] at h

/-- Settles O11: the placed word stands first on the ports of the state with the mark clear. -/
theorem placedWordRunsNext : Obligations.PlacedWordRunsNext := by
  unfold Obligations.PlacedWordRunsNext
  intro s nbits w i h
  exact (step_load_cons (s := { s with refused := false }) (BitVec.ofNat 10 (w % 2 ^ nbits)) [] rfl).trans
    (acceptWord_instr _ (decode_of_decodeTableWord h))

/-- Settles O18: without a result on the port an idle edge draws one free value. -/
theorem idleEdgeLeavesTheEngine : Obligations.IdleEdgeLeavesTheEngine := by
  unfold Obligations.IdleEdgeLeavesTheEngine
  intro s href hrst hvalid hres
  have hres' : s.consumeInput.resValid = false := hres
  refine ⟨Config.freeResData s.freeStream s.freeNext, ?_⟩
  rw [step_of_idle href hrst hvalid, State.holdResult_of_invalid hres', State.dropResult, ← hres]
  rfl

/-- Settles O12: the decoder's class is the refusal's, and a run that holds the mark stops at its next step. -/
theorem reservedWordsAreRefusedByClass : Obligations.ReservedWordsAreRefusedByClass := by
  unfold Obligations.ReservedWordsAreRefusedByClass
  intro s w h
  refine ⟨fun hop => ?_, fun hop hdata => ?_, fun hreserved => ?_⟩
  · rw [step_of_accepts h, acceptWord, (decode_eq_reservedOp_iff w).2 hop]
  · rw [step_of_accepts h, acceptWord, (decode_eq_nonzeroData_iff w).2 ⟨hop, hdata⟩]
  · obtain ⟨r, hd⟩ := (wordWellFormed_eq_false_iff w).1 hreserved
    obtain ⟨q, hq⟩ := acceptWord_reserved s.consumeInput hd
    rw [advance_of_refused ((step_of_accepts h).trans hq)]
    exact ⟨rfl, State.portOutput_markRefused s,
      fun k => core_run_succ_of_refused k (step_of_refused (State.markRefused_refused s))⟩

/-! ### Independence from the register -/

/-- Holding the result port neither reads nor writes the register. -/
theorem State.holdResult_writeCrc (v : Word) (s : State) : (s.writeCrc v).holdResult = s.holdResult.writeCrc v := by
  cases h : s.resValid with
  | true => rw [State.holdResult_of_valid h, State.holdResult_of_valid (s := s.writeCrc v) h]
  | false => rw [State.holdResult_of_invalid h, State.holdResult_of_invalid (s := s.writeCrc v) h]; rfl

/-- Settles O22: `rst` and an edge that accepts nothing do not read the register, and INIT and UPDATE show nothing; the word of any
other command is FINAL's. -/
theorem onlyFinalShowsTheRegister : Obligations.OnlyFinalShowsTheRegister := by
  unfold Obligations.OnlyFinalShowsTheRegister
  intro s t v h hfinal
  obtain ⟨href, ⟨hrst, rfl⟩ | ⟨hrst, hvalid, i, hd, hexec⟩ | ⟨hrst, hvalid, rfl⟩⟩ := step_cases h
  · exact ⟨_, step_of_rst (s := s.writeCrc v) href hrst, rfl, rfl⟩
  · have hi : i ≠ .final := by
      rintro rfl
      exact hfinal ⟨href, hrst, hvalid, (encode_of_decode hd).symm⟩
    obtain ⟨u, hu, huvalid, huport⟩ := exec_ends_result hi s.consumeInput
    cases hexec.symm.trans hu
    obtain ⟨t', ht', htvalid, htport⟩ := exec_ends_result hi (s.writeCrc v).consumeInput
    refine ⟨t', ?_, htvalid.trans huvalid.symm, htport.trans huport.symm⟩
    exact (step_of_accepts_instr (s := s.writeCrc v) ⟨href, hrst, hvalid, rfl⟩ hd).trans ht'
  · refine ⟨s.consumeInput.holdResult.writeCrc v, ?_, rfl, rfl⟩
    rw [← State.holdResult_writeCrc]
    exact step_of_idle (s := s.writeCrc v) href hrst hvalid

/-! ### The order of the words -/

theorem runWords_cons_of_refused {s : State} {w : CmdWord} {ws : List CmdWord} {r : Refusal}
    (h : step (s.load (w :: ws)) = .refused r) : runWords (w :: ws) s = .refused r :=
  core_run_succ_of_refused ws.length h

/-- A run that ends in a state started unrefused, and its first word is a command. -/
theorem runWords_cons_next {s t : State} {w : CmdWord} {ws : List CmdWord} (h : runWords (w :: ws) s = .next t) :
    s.refused = false ∧ ∃ i, decode w = .instr i := by
  cases href : s.refused with
  | true =>
    have hload : (s.load (w :: ws)).refused = true := href
    simp [runWords_cons_of_refused (step_of_refused hload)] at h
  | false =>
    refine ⟨rfl, ?_⟩
    cases hd : decode w with
    | instr i => exact ⟨i, rfl⟩
    | reserved r =>
      obtain ⟨q, hq⟩ := acceptWord_reserved (s.load ws) hd
      simp [runWords_cons_of_refused ((step_load_cons w ws href).trans hq)] at h

theorem runWords_append {ws : List CmdWord} (vs : List CmdWord) {s t : State} (h : runWords ws s = .next t) :
    runWords (ws ++ vs) s = runWords vs t := by
  induction ws generalizing s with
  | nil => cases h; rfl
  | cons w ws ih =>
    obtain ⟨href, i, hd⟩ := runWords_cons_next h
    obtain ⟨u, hu⟩ := exec_completes i s
    rw [runWords_cons ws href hd hu] at h
    rw [List.cons_append, runWords_cons (ws ++ vs) href hd hu, ih h]

/-- Settles O23, by induction on the words run first. -/
theorem wordsTakeEffectInOrder : Obligations.WordsTakeEffectInOrder := by
  unfold Obligations.WordsTakeEffectInOrder
  exact fun _ vs _ _ => runWords_append vs

/-! ### After reset -/

/-- Settles O15, field by field. -/
theorem resetLeavesTheRegisterZero : Obligations.ResetLeavesTheRegisterZero := by
  unfold Obligations.ResetLeavesTheRegisterZero
  exact ⟨rfl, fun _ => ⟨rfl, rfl, rfl, rfl, rfl⟩⟩

/-- Settles O26: on the spec's engine `init` starts over from the register that reset leaves. -/
theorem initAfterResetIsInvisible : Obligations.InitAfterResetIsInvisible := by
  unfold Obligations.InitAfterResetIsInvisible
  intro ws
  have href : State.reset.refused = false := rfl
  have hcrc : State.reset.crc = Config.initValue := rfl
  rw [observe, observe, observeFrom_eq_engineObserve _ href, observeFrom_eq_engineObserve _ href, engineObserve_init, hcrc]

/-- Settles O29: the number of engines counts the first one, and a platform lists its engines by their streams. -/
theorem everyInstanceStartsReset : Obligations.EveryInstanceStartsReset := by
  unfold Obligations.EveryInstanceStartsReset
  exact ⟨Nat.le_add_left 1 Config.extraEngines, fun n k => Vector.getElem_ofFn k.isLt⟩

/-! ### Tables that agree where they are read -/

/-- The fold depends on the table only by the entries its steps read. -/
theorem updSeq_congr {lut lut' : Lut} {cs : List Byte} {r : Word} (h : ∀ i ∈ indicesRead lut r cs, lut i = lut' i) :
    updSeq lut r cs = updSeq lut' r cs := by
  induction cs generalizing r with
  | nil => rfl
  | cons c cs ih =>
    rw [indicesRead, List.forall_mem_cons] at h
    obtain ⟨hentry, hrest⟩ := h
    have hstep : updByte lut r c = updByte lut' r c := by
      rw [updByte, updByte, combine, combine, lutRead, lutRead, hentry]
    rw [updSeq_cons, updSeq_cons, ih hrest, hstep]

/-- Settles O42: two admissible tables agree on the entries read. -/
theorem knownEntriesFixTheResult : Obligations.KnownEntriesFixTheResult := by
  unfold Obligations.KnownEntriesFixTheResult
  rintro lut lut' cs ⟨hzero, hone⟩ ⟨hzero', hone'⟩ hread
  have hagree : ∀ i ∈ indicesRead lut 0#64 cs, lut i = lut' i := by
    intro i hi
    obtain rfl | rfl := hread i hi
    · rw [hzero, hzero']
    · rw [hone, hone']
  rw [crc64_ordinals, crc64_ordinals, updSeq_congr hagree]

end Sys2Proof.Machine
